-- ==== Sys2Proof/Word.lean ====
section
/-! DEFINITION. The word types of the block: 32-bit registers and addresses (R8, R11), 8-bit bytes (R32),
and the index of one of the 32 general registers (R7, R20). -/

namespace Sys2Proof

/-- A W-bit value, W = 32: a register's contents, the pc, an address, an instruction word (R8, R9, R11). -/
abbrev Word := BitVec 32

/-- One byte of memory (R32). -/
abbrev Byte := BitVec 8

/-- The index of a general register, x0 to x31 (R7, R20, R82). -/
abbrev RegIdx := Fin 32

end Sys2Proof
end

