-- ==== Sys2Proof/Machine/Flags.lean ====
section
/-! DEFINITION. The block has no flags and no condition codes (R29): comparisons write 0 or 1 to a general register,
and branches compare registers directly. These are the comparisons. -/

namespace Sys2Proof.Machine

/-- `signed(a) < signed(b)` (R13, R14). -/
def lessSigned (a b : Word) : Bool := decide (a.toInt < b.toInt)

/-- `unsigned(a) < unsigned(b)` (R13, R14). -/
def lessUnsigned (a b : Word) : Bool := decide (a.toNat < b.toNat)

/-- The value a comparison writes: 32'h00000001 when it holds, else 32'h00000000 (R124, R125, R142, R143). -/
def flagValue (c : Bool) : Word := if c then 1#32 else 0#32

end Sys2Proof.Machine
end

