-- ==== Sys2Proof/Config.lean ====
section
/-! DEFINITION. What the spec leaves to a build as a parameter: the bounds of MEM_SIZE (R10, D3), the
instruction width (R9). The spec leaves no RESULT open (R109: no nondeterminism, no oracle, no draw), so
there is no free value here. The size of the memory itself is a field of the memory (R36: MemState holds
its size); the size the model's reset state launches with is `Sys2Proof.Machine.Memory.launchSize`. -/

namespace Sys2Proof.Config

/-- The smallest MEM_SIZE: `Memory.new(0)` fails (R10, R41). -/
abbrev minMemSize : Nat := 1

/-- The largest MEM_SIZE: a 32-bit address reaches no further (R10, decision D3). -/
abbrev maxMemSize : Nat := 2 ^ 32

/-- The instruction width and the fetch alignment, in bytes (R9). -/
abbrev instrBytes : Nat := 4

end Sys2Proof.Config
end

