-- ==== Sys2Proof/WellFormed.lean ====
section
/-! DEFINITION. Which instruction terms an instruction word can hold: the ranges that R80 gives for each
format's immediate. Register fields and shift amounts are right by their types (R81, R82). -/

namespace Sys2Proof

/-- `imm` is an n-bit signed number: it lies in -2^(n-1) .. 2^(n-1) - 1 (the ranges of R80). -/
def fitsSigned (n : Nat) (imm : Word) : Bool :=
  decide (-(2 ^ (n - 1) : Int) ≤ imm.toInt) && decide (imm.toInt < (2 ^ (n - 1) : Int))

/-- Bit 0 of `imm` is 0: the offsets of the B and J formats are even (R80). -/
def isEven (imm : Word) : Bool := imm.extractLsb' 0 1 == 0#1

/-- imm_I and imm_S: 12 bits, -2048 .. 2047 (R80). -/
def fits12 (imm : Word) : Bool := fitsSigned 12 imm

/-- imm_B: 13 bits, even, -4096 .. 4094 (R80). -/
def fitsB (imm : Word) : Bool := fitsSigned 13 imm && isEven imm

/-- imm_J: 21 bits, even, -1048576 .. 1048574 (R80). -/
def fitsJ (imm : Word) : Bool := fitsSigned 21 imm && isEven imm

/-- imm_U: the low 12 bits are zero (R80). -/
def fitsU (imm : Word) : Bool := imm.extractLsb' 0 12 == 0#12

/-- The instruction's immediate is one its format can hold. -/
def Instr.wellFormed : Instr → Bool
  | .lui _ imm => fitsU imm
  | .auipc _ imm => fitsU imm
  | .jal _ imm => fitsJ imm
  | .jalr _ _ imm => fits12 imm
  | .beq _ _ imm => fitsB imm
  | .bne _ _ imm => fitsB imm
  | .blt _ _ imm => fitsB imm
  | .bge _ _ imm => fitsB imm
  | .bltu _ _ imm => fitsB imm
  | .bgeu _ _ imm => fitsB imm
  | .lb _ _ imm => fits12 imm
  | .lh _ _ imm => fits12 imm
  | .lw _ _ imm => fits12 imm
  | .lbu _ _ imm => fits12 imm
  | .lhu _ _ imm => fits12 imm
  | .sb _ _ imm => fits12 imm
  | .sh _ _ imm => fits12 imm
  | .sw _ _ imm => fits12 imm
  | .addi _ _ imm => fits12 imm
  | .slti _ _ imm => fits12 imm
  | .sltiu _ _ imm => fits12 imm
  | .xori _ _ imm => fits12 imm
  | .ori _ _ imm => fits12 imm
  | .andi _ _ imm => fits12 imm
  | .slli _ _ _ => true
  | .srli _ _ _ => true
  | .srai _ _ _ => true
  | .add _ _ _ => true
  | .sub _ _ _ => true
  | .sll _ _ _ => true
  | .slt _ _ _ => true
  | .sltu _ _ _ => true
  | .xor _ _ _ => true
  | .srl _ _ _ => true
  | .sra _ _ _ => true
  | .or _ _ _ => true
  | .and _ _ _ => true
  | .fence _ _ _ => true

end Sys2Proof
end

