-- ==== Sys2Proof/Decode.lean ====
section
/-! DEFINITION. The instruction encodings of spec/30_encoding.md: the fields and immediates of a word (R71 to
R81), the decoder (R83 to R88), the opcode table's masks and patterns (R84), and the encoder written from the
same formats (R72 to R79). -/

namespace Sys2Proof

/-! ## Fields of a word (R71, R78, R79) -/

/-- `opcode = inst[6:0]` (R71). -/
def opcode (w : Word) : BitVec 7 := w.extractLsb' 0 7

/-- `rd = inst[11:7]` (R71). -/
def rdField (w : Word) : RegIdx := (w.extractLsb' 7 5).toFin

/-- `funct3 = inst[14:12]` (R71). -/
def funct3 (w : Word) : BitVec 3 := w.extractLsb' 12 3

/-- `rs1 = inst[19:15]` (R71). -/
def rs1Field (w : Word) : RegIdx := (w.extractLsb' 15 5).toFin

/-- `rs2 = inst[24:20]` (R71). -/
def rs2Field (w : Word) : RegIdx := (w.extractLsb' 20 5).toFin

/-- `funct7 = inst[31:25]` (R71). -/
def funct7 (w : Word) : BitVec 7 := w.extractLsb' 25 7

/-- `shamt = inst[24:20]`, unsigned (R78, R81). -/
def shamtField (w : Word) : BitVec 5 := w.extractLsb' 20 5

/-- FENCE's `fm = inst[31:28]` (R79). -/
def fmField (w : Word) : BitVec 4 := w.extractLsb' 28 4

/-- FENCE's `pred = inst[27:24]` (R79). -/
def predField (w : Word) : BitVec 4 := w.extractLsb' 24 4

/-- FENCE's `succ = inst[23:20]` (R79). -/
def succField (w : Word) : BitVec 4 := w.extractLsb' 20 4

/-! ## Immediates (R80) -/

/-- `imm_I = sext_32(inst[31:20])` (R80). -/
def immI (w : Word) : Word := (w.extractLsb' 20 12).signExtend 32

/-- `imm_S = sext_32({inst[31:25], inst[11:7]})` (R80). -/
def immS (w : Word) : Word := (w.extractLsb' 25 7 ++ w.extractLsb' 7 5).signExtend 32

/-- `imm_B = sext_32({inst[31], inst[7], inst[30:25], inst[11:8], 1'b0})` (R80). -/
def immB (w : Word) : Word :=
  (w.extractLsb' 31 1 ++ w.extractLsb' 7 1 ++ w.extractLsb' 25 6 ++ w.extractLsb' 8 4 ++ 0#1).signExtend 32

/-- `imm_U = {inst[31:12], 12'h000}` (R80). -/
def immU (w : Word) : Word := w.extractLsb' 12 20 ++ 0#12

/-- `imm_J = sext_32({inst[31], inst[19:12], inst[20], inst[30:21], 1'b0})` (R80). -/
def immJ (w : Word) : Word :=
  (w.extractLsb' 31 1 ++ w.extractLsb' 12 8 ++ w.extractLsb' 20 1 ++ w.extractLsb' 21 10 ++ 0#1).signExtend 32

/-! ## The decoder (R85 to R88) -/

/-- Why the decoder gives no instruction. -/
inductive Reject where
  /-- the word matches no supported pattern: R85's explicit `Unsupported` outcome (R86, R87) -/
  | unsupported
  /-- fewer than four bytes were given to `decodeBytes`; no fetch does that (log entry 9) -/
  | truncated
deriving DecidableEq, Repr

/-- LOAD, opcode 0000011 (R84). -/
def decodeLoad (w : Word) : Except Reject Instr :=
  match funct3 w with
  | 0b000#3 => .ok (.lb (rdField w) (rs1Field w) (immI w))
  | 0b001#3 => .ok (.lh (rdField w) (rs1Field w) (immI w))
  | 0b010#3 => .ok (.lw (rdField w) (rs1Field w) (immI w))
  | 0b100#3 => .ok (.lbu (rdField w) (rs1Field w) (immI w))
  | 0b101#3 => .ok (.lhu (rdField w) (rs1Field w) (immI w))
  | _ => .error .unsupported

/-- MISC-MEM, opcode 0001111: FENCE alone, its rs1 and rd fields ignored (R84, R88, R201). -/
def decodeMiscMem (w : Word) : Except Reject Instr :=
  match funct3 w with
  | 0b000#3 => .ok (.fence (fmField w) (predField w) (succField w))
  | _ => .error .unsupported

/-- OP-IMM, opcode 0010011; the shifts also check inst[31:25] (R78, R84). -/
def decodeOpImm (w : Word) : Except Reject Instr :=
  match funct3 w with
  | 0b000#3 => .ok (.addi (rdField w) (rs1Field w) (immI w))
  | 0b010#3 => .ok (.slti (rdField w) (rs1Field w) (immI w))
  | 0b011#3 => .ok (.sltiu (rdField w) (rs1Field w) (immI w))
  | 0b100#3 => .ok (.xori (rdField w) (rs1Field w) (immI w))
  | 0b110#3 => .ok (.ori (rdField w) (rs1Field w) (immI w))
  | 0b111#3 => .ok (.andi (rdField w) (rs1Field w) (immI w))
  | 0b001#3 =>
    match funct7 w with
    | 0b0000000#7 => .ok (.slli (rdField w) (rs1Field w) (shamtField w))
    | _ => .error .unsupported
  | 0b101#3 =>
    match funct7 w with
    | 0b0000000#7 => .ok (.srli (rdField w) (rs1Field w) (shamtField w))
    | 0b0100000#7 => .ok (.srai (rdField w) (rs1Field w) (shamtField w))
    | _ => .error .unsupported

/-- STORE, opcode 0100011 (R84). -/
def decodeStore (w : Word) : Except Reject Instr :=
  match funct3 w with
  | 0b000#3 => .ok (.sb (rs1Field w) (rs2Field w) (immS w))
  | 0b001#3 => .ok (.sh (rs1Field w) (rs2Field w) (immS w))
  | 0b010#3 => .ok (.sw (rs1Field w) (rs2Field w) (immS w))
  | _ => .error .unsupported

/-- OP, opcode 0110011 (R84). -/
def decodeOp (w : Word) : Except Reject Instr :=
  match funct7 w with
  | 0b0000000#7 =>
    match funct3 w with
    | 0b000#3 => .ok (.add (rdField w) (rs1Field w) (rs2Field w))
    | 0b001#3 => .ok (.sll (rdField w) (rs1Field w) (rs2Field w))
    | 0b010#3 => .ok (.slt (rdField w) (rs1Field w) (rs2Field w))
    | 0b011#3 => .ok (.sltu (rdField w) (rs1Field w) (rs2Field w))
    | 0b100#3 => .ok (.xor (rdField w) (rs1Field w) (rs2Field w))
    | 0b101#3 => .ok (.srl (rdField w) (rs1Field w) (rs2Field w))
    | 0b110#3 => .ok (.or (rdField w) (rs1Field w) (rs2Field w))
    | 0b111#3 => .ok (.and (rdField w) (rs1Field w) (rs2Field w))
  | 0b0100000#7 =>
    match funct3 w with
    | 0b000#3 => .ok (.sub (rdField w) (rs1Field w) (rs2Field w))
    | 0b101#3 => .ok (.sra (rdField w) (rs1Field w) (rs2Field w))
    | _ => .error .unsupported
  | _ => .error .unsupported

/-- BRANCH, opcode 1100011 (R84). -/
def decodeBranch (w : Word) : Except Reject Instr :=
  match funct3 w with
  | 0b000#3 => .ok (.beq (rs1Field w) (rs2Field w) (immB w))
  | 0b001#3 => .ok (.bne (rs1Field w) (rs2Field w) (immB w))
  | 0b100#3 => .ok (.blt (rs1Field w) (rs2Field w) (immB w))
  | 0b101#3 => .ok (.bge (rs1Field w) (rs2Field w) (immB w))
  | 0b110#3 => .ok (.bltu (rs1Field w) (rs2Field w) (immB w))
  | 0b111#3 => .ok (.bgeu (rs1Field w) (rs2Field w) (immB w))
  | _ => .error .unsupported

/-- JALR, opcode 1100111 (R84). -/
def decodeJalr (w : Word) : Except Reject Instr :=
  match funct3 w with
  | 0b000#3 => .ok (.jalr (rdField w) (rs1Field w) (immI w))
  | _ => .error .unsupported

/-- `decode(word)`: pure and total over the 32-bit words (R86). The major opcode selects the group (R83);
within it funct3 and funct7 select the instruction (R84). SYSTEM (1110011) and every other opcode is
unsupported (R87). That this is the mask-and-match loop of R86 is an obligation. -/
def decode (w : Word) : Except Reject Instr :=
  match opcode w with
  | 0b0000011#7 => decodeLoad w
  | 0b0001111#7 => decodeMiscMem w
  | 0b0010011#7 => decodeOpImm w
  | 0b0010111#7 => .ok (.auipc (rdField w) (immU w))
  | 0b0100011#7 => decodeStore w
  | 0b0110011#7 => decodeOp w
  | 0b0110111#7 => .ok (.lui (rdField w) (immU w))
  | 0b1100011#7 => decodeBranch w
  | 0b1100111#7 => decodeJalr w
  | 0b1101111#7 => .ok (.jal (rdField w) (immJ w))
  | _ => .error .unsupported

/-! ## Bytes (R43, R70) -/

/-- The word whose bits [8i+7:8i] are byte i: little-endian (R43). -/
def wordOfBytes (b0 b1 b2 b3 : Byte) : Word := b3 ++ b2 ++ b1 ++ b0

/-- The four bytes of a word, from the lowest address up (R43). -/
def bytesOfWord (w : Word) : List Byte :=
  [w.extractLsb' 0 8, w.extractLsb' 8 8, w.extractLsb' 16 8, w.extractLsb' 24 8]

/-- Decode the instruction at the head of a byte sequence: four bytes, never more (R70), and the rest. -/
def decodeBytes : List Byte → Except Reject (Instr × List Byte)
  | b0 :: b1 :: b2 :: b3 :: rest =>
    match decode (wordOfBytes b0 b1 b2 b3) with
    | .ok i => .ok (i, rest)
    | .error r => .error r
  | _ => .error .truncated

/-- The instruction the decoder reads from an instruction whose bits are `w` in spec/opcode_table.json's
numbering; the bits above `nbits` are 0. -/
def decodeTableWord (nbits w : Nat) : Option Instr :=
  match decodeBytes (bytesOfWord (BitVec.ofNat 32 (w % 2 ^ nbits))) with
  | .ok (i, _) => some i
  | .error _ => none

/-! ## The encoder (R72 to R79) -/

/-- A register index as its 5-bit field (R71). -/
def regBits (r : RegIdx) : BitVec 5 := BitVec.ofFin r

/-- R-type (R72), and the I-type shift form with `shamt` in rs2's place (R78). -/
def rType (f7 : BitVec 7) (rs2 rs1 : BitVec 5) (f3 : BitVec 3) (rd : BitVec 5) (op : BitVec 7) : Word :=
  f7 ++ rs2 ++ rs1 ++ f3 ++ rd ++ op

/-- I-type (R73). -/
def iType (imm : Word) (rs1 : BitVec 5) (f3 : BitVec 3) (rd : BitVec 5) (op : BitVec 7) : Word :=
  imm.extractLsb' 0 12 ++ rs1 ++ f3 ++ rd ++ op

/-- S-type (R74). -/
def sType (imm : Word) (rs2 rs1 : BitVec 5) (f3 : BitVec 3) (op : BitVec 7) : Word :=
  imm.extractLsb' 5 7 ++ rs2 ++ rs1 ++ f3 ++ imm.extractLsb' 0 5 ++ op

/-- B-type (R75). -/
def bType (imm : Word) (rs2 rs1 : BitVec 5) (f3 : BitVec 3) (op : BitVec 7) : Word :=
  imm.extractLsb' 12 1 ++ imm.extractLsb' 5 6 ++ rs2 ++ rs1 ++ f3 ++ imm.extractLsb' 1 4 ++ imm.extractLsb' 11 1 ++ op

/-- U-type (R76). -/
def uType (imm : Word) (rd : BitVec 5) (op : BitVec 7) : Word :=
  imm.extractLsb' 12 20 ++ rd ++ op

/-- J-type (R77). -/
def jType (imm : Word) (rd : BitVec 5) (op : BitVec 7) : Word :=
  imm.extractLsb' 20 1 ++ imm.extractLsb' 1 10 ++ imm.extractLsb' 11 1 ++ imm.extractLsb' 12 8 ++ rd ++ op

/-- FENCE (R79). The ignored rs1 and rd fields are written as 0 (log entry 8). -/
def fenceType (fm pred succ : BitVec 4) : Word :=
  fm ++ pred ++ succ ++ 0b00000#5 ++ 0b000#3 ++ 0b00000#5 ++ 0b0001111#7

/-- The word of an instruction. -/
def encode : Instr → Word
  | .lui rd imm => uType imm (regBits rd) 0b0110111#7
  | .auipc rd imm => uType imm (regBits rd) 0b0010111#7
  | .jal rd imm => jType imm (regBits rd) 0b1101111#7
  | .jalr rd rs1 imm => iType imm (regBits rs1) 0b000#3 (regBits rd) 0b1100111#7
  | .beq rs1 rs2 imm => bType imm (regBits rs2) (regBits rs1) 0b000#3 0b1100011#7
  | .bne rs1 rs2 imm => bType imm (regBits rs2) (regBits rs1) 0b001#3 0b1100011#7
  | .blt rs1 rs2 imm => bType imm (regBits rs2) (regBits rs1) 0b100#3 0b1100011#7
  | .bge rs1 rs2 imm => bType imm (regBits rs2) (regBits rs1) 0b101#3 0b1100011#7
  | .bltu rs1 rs2 imm => bType imm (regBits rs2) (regBits rs1) 0b110#3 0b1100011#7
  | .bgeu rs1 rs2 imm => bType imm (regBits rs2) (regBits rs1) 0b111#3 0b1100011#7
  | .lb rd rs1 imm => iType imm (regBits rs1) 0b000#3 (regBits rd) 0b0000011#7
  | .lh rd rs1 imm => iType imm (regBits rs1) 0b001#3 (regBits rd) 0b0000011#7
  | .lw rd rs1 imm => iType imm (regBits rs1) 0b010#3 (regBits rd) 0b0000011#7
  | .lbu rd rs1 imm => iType imm (regBits rs1) 0b100#3 (regBits rd) 0b0000011#7
  | .lhu rd rs1 imm => iType imm (regBits rs1) 0b101#3 (regBits rd) 0b0000011#7
  | .sb rs1 rs2 imm => sType imm (regBits rs2) (regBits rs1) 0b000#3 0b0100011#7
  | .sh rs1 rs2 imm => sType imm (regBits rs2) (regBits rs1) 0b001#3 0b0100011#7
  | .sw rs1 rs2 imm => sType imm (regBits rs2) (regBits rs1) 0b010#3 0b0100011#7
  | .addi rd rs1 imm => iType imm (regBits rs1) 0b000#3 (regBits rd) 0b0010011#7
  | .slti rd rs1 imm => iType imm (regBits rs1) 0b010#3 (regBits rd) 0b0010011#7
  | .sltiu rd rs1 imm => iType imm (regBits rs1) 0b011#3 (regBits rd) 0b0010011#7
  | .xori rd rs1 imm => iType imm (regBits rs1) 0b100#3 (regBits rd) 0b0010011#7
  | .ori rd rs1 imm => iType imm (regBits rs1) 0b110#3 (regBits rd) 0b0010011#7
  | .andi rd rs1 imm => iType imm (regBits rs1) 0b111#3 (regBits rd) 0b0010011#7
  | .slli rd rs1 shamt => rType 0b0000000#7 shamt (regBits rs1) 0b001#3 (regBits rd) 0b0010011#7
  | .srli rd rs1 shamt => rType 0b0000000#7 shamt (regBits rs1) 0b101#3 (regBits rd) 0b0010011#7
  | .srai rd rs1 shamt => rType 0b0100000#7 shamt (regBits rs1) 0b101#3 (regBits rd) 0b0010011#7
  | .add rd rs1 rs2 => rType 0b0000000#7 (regBits rs2) (regBits rs1) 0b000#3 (regBits rd) 0b0110011#7
  | .sub rd rs1 rs2 => rType 0b0100000#7 (regBits rs2) (regBits rs1) 0b000#3 (regBits rd) 0b0110011#7
  | .sll rd rs1 rs2 => rType 0b0000000#7 (regBits rs2) (regBits rs1) 0b001#3 (regBits rd) 0b0110011#7
  | .slt rd rs1 rs2 => rType 0b0000000#7 (regBits rs2) (regBits rs1) 0b010#3 (regBits rd) 0b0110011#7
  | .sltu rd rs1 rs2 => rType 0b0000000#7 (regBits rs2) (regBits rs1) 0b011#3 (regBits rd) 0b0110011#7
  | .xor rd rs1 rs2 => rType 0b0000000#7 (regBits rs2) (regBits rs1) 0b100#3 (regBits rd) 0b0110011#7
  | .srl rd rs1 rs2 => rType 0b0000000#7 (regBits rs2) (regBits rs1) 0b101#3 (regBits rd) 0b0110011#7
  | .sra rd rs1 rs2 => rType 0b0100000#7 (regBits rs2) (regBits rs1) 0b101#3 (regBits rd) 0b0110011#7
  | .or rd rs1 rs2 => rType 0b0000000#7 (regBits rs2) (regBits rs1) 0b110#3 (regBits rd) 0b0110011#7
  | .and rd rs1 rs2 => rType 0b0000000#7 (regBits rs2) (regBits rs1) 0b111#3 (regBits rd) 0b0110011#7
  | .fence fm pred succ => fenceType fm pred succ

/-! ## The opcode table (R84) -/

/-- A row of R84's table: a word matches it when `(word & mask) == pattern`. -/
structure Row where
  pattern : Word
  mask : Word
deriving DecidableEq, Repr

/-- `(word & mask) == match` (R84). -/
def Row.holds (r : Row) (w : Word) : Bool := w &&& r.mask == r.pattern

/-- The row of an instruction, with the match and mask that R84 prints. -/
def Instr.row : Instr → Row
  | .lui _ _ => ⟨0x00000037#32, 0x0000007F#32⟩
  | .auipc _ _ => ⟨0x00000017#32, 0x0000007F#32⟩
  | .jal _ _ => ⟨0x0000006F#32, 0x0000007F#32⟩
  | .jalr _ _ _ => ⟨0x00000067#32, 0x0000707F#32⟩
  | .beq _ _ _ => ⟨0x00000063#32, 0x0000707F#32⟩
  | .bne _ _ _ => ⟨0x00001063#32, 0x0000707F#32⟩
  | .blt _ _ _ => ⟨0x00004063#32, 0x0000707F#32⟩
  | .bge _ _ _ => ⟨0x00005063#32, 0x0000707F#32⟩
  | .bltu _ _ _ => ⟨0x00006063#32, 0x0000707F#32⟩
  | .bgeu _ _ _ => ⟨0x00007063#32, 0x0000707F#32⟩
  | .lb _ _ _ => ⟨0x00000003#32, 0x0000707F#32⟩
  | .lh _ _ _ => ⟨0x00001003#32, 0x0000707F#32⟩
  | .lw _ _ _ => ⟨0x00002003#32, 0x0000707F#32⟩
  | .lbu _ _ _ => ⟨0x00004003#32, 0x0000707F#32⟩
  | .lhu _ _ _ => ⟨0x00005003#32, 0x0000707F#32⟩
  | .sb _ _ _ => ⟨0x00000023#32, 0x0000707F#32⟩
  | .sh _ _ _ => ⟨0x00001023#32, 0x0000707F#32⟩
  | .sw _ _ _ => ⟨0x00002023#32, 0x0000707F#32⟩
  | .addi _ _ _ => ⟨0x00000013#32, 0x0000707F#32⟩
  | .slti _ _ _ => ⟨0x00002013#32, 0x0000707F#32⟩
  | .sltiu _ _ _ => ⟨0x00003013#32, 0x0000707F#32⟩
  | .xori _ _ _ => ⟨0x00004013#32, 0x0000707F#32⟩
  | .ori _ _ _ => ⟨0x00006013#32, 0x0000707F#32⟩
  | .andi _ _ _ => ⟨0x00007013#32, 0x0000707F#32⟩
  | .slli _ _ _ => ⟨0x00001013#32, 0xFE00707F#32⟩
  | .srli _ _ _ => ⟨0x00005013#32, 0xFE00707F#32⟩
  | .srai _ _ _ => ⟨0x40005013#32, 0xFE00707F#32⟩
  | .add _ _ _ => ⟨0x00000033#32, 0xFE00707F#32⟩
  | .sub _ _ _ => ⟨0x40000033#32, 0xFE00707F#32⟩
  | .sll _ _ _ => ⟨0x00001033#32, 0xFE00707F#32⟩
  | .slt _ _ _ => ⟨0x00002033#32, 0xFE00707F#32⟩
  | .sltu _ _ _ => ⟨0x00003033#32, 0xFE00707F#32⟩
  | .xor _ _ _ => ⟨0x00004033#32, 0xFE00707F#32⟩
  | .srl _ _ _ => ⟨0x00005033#32, 0xFE00707F#32⟩
  | .sra _ _ _ => ⟨0x40005033#32, 0xFE00707F#32⟩
  | .or _ _ _ => ⟨0x00006033#32, 0xFE00707F#32⟩
  | .and _ _ _ => ⟨0x00007033#32, 0xFE00707F#32⟩
  | .fence _ _ _ => ⟨0x0000000F#32, 0x0000707F#32⟩

/-- One instruction of each control-transfer, LUI and AUIPC variant, every operand 0. -/
def Instr.transferSamples : List Instr :=
  [.lui 0 0, .auipc 0 0, .jal 0 0, .jalr 0 0 0, .beq 0 0 0, .bne 0 0 0, .blt 0 0 0, .bge 0 0 0, .bltu 0 0 0,
   .bgeu 0 0 0]

/-- One instruction of each load and store variant, every operand 0. -/
def Instr.memorySamples : List Instr :=
  [.lb 0 0 0, .lh 0 0 0, .lw 0 0 0, .lbu 0 0 0, .lhu 0 0 0, .sb 0 0 0, .sh 0 0 0, .sw 0 0 0]

/-- One instruction of each register-immediate variant, every operand 0. -/
def Instr.immediateSamples : List Instr :=
  [.addi 0 0 0, .slti 0 0 0, .sltiu 0 0 0, .xori 0 0 0, .ori 0 0 0, .andi 0 0 0, .slli 0 0 0, .srli 0 0 0,
   .srai 0 0 0]

/-- One instruction of each register-register variant and FENCE, every operand 0. -/
def Instr.registerSamples : List Instr :=
  [.add 0 0 0, .sub 0 0 0, .sll 0 0 0, .slt 0 0 0, .sltu 0 0 0, .xor 0 0 0, .srl 0 0 0, .sra 0 0 0, .or 0 0 0,
   .and 0 0 0, .fence 0 0 0]

/-- One instruction of each variant, in the order of R84. -/
def Instr.samples : List Instr :=
  List.flatten [transferSamples, memorySamples, immediateSamples, registerSamples]

/-- The 38 rows of R84's table, in its order. -/
def opcodeTable : List Row := Instr.samples.map Instr.row

end Sys2Proof
end

