-- ==== Sys2Proof/Machine/Memory.lean ====
section
/-! DEFINITION. The Memory of the block (20_memory.md): a flat array of MEM_SIZE bytes (R32, R40), held as the
list of its non-zero bytes. A byte nobody wrote is 8'h00 (R41, R58), so an unlisted address reads 0 (log entry 5). The
checked primitives MemRead and MemWrite are in Machine/Ops.lean. -/

namespace Sys2Proof.Machine

/-- MemState (R36): the size in bytes, fixed when the memory is created (R42), and the bytes that are not 0,
in one canonical form (`Memory.wf`). -/
structure Memory where
  size : Nat
  cells : List Host.Cell
deriving DecidableEq, Repr

/-- The byte a list of cells holds at an address; an unlisted address holds 0 (R41, R58). -/
def cellAt : List Host.Cell → Nat → Byte
  | [], _ => 0#8
  | (k, b) :: rest, a => if k = a then b else cellAt rest a

/-- The cell of a byte in front of the rest; a byte that is 0 needs no cell. -/
def consCell (a : Nat) (v : Byte) (rest : List Host.Cell) : List Host.Cell :=
  if v = 0#8 then rest else (a, v) :: rest

/-- Put a byte into a list of cells whose addresses rise. -/
def setCell : List Host.Cell → Nat → Byte → List Host.Cell
  | [], a, v => consCell a v []
  | (k, b) :: rest, a, v =>
    if k < a then (k, b) :: setCell rest a v
    else if k = a then consCell a v rest
    else consCell a v ((k, b) :: rest)

namespace Memory

/-- `mem[a]` (R32). -/
def byteAt (m : Memory) (a : Nat) : Byte := cellAt m.cells a

/-- `mem[a] <- v` (R45). -/
def setByte (m : Memory) (a : Nat) (v : Byte) : Memory := { m with cells := setCell m.cells a v }

/-- The canonical form: the size is one a memory can have (R10); addresses strictly rise; every listed byte
exists and is not 0. Equal memories are then equal data. -/
abbrev wf (m : Memory) : Prop :=
  Config.minMemSize ≤ m.size ∧ m.size ≤ Config.maxMemSize ∧
  m.cells.Pairwise (fun c d => c.1 < d.1) ∧ ∀ c ∈ m.cells, c.1 < m.size ∧ c.2 ≠ 0#8

/-- Every byte 8'h00 (R41, R244). -/
def zeroed (size : Nat) : Memory := { size := size, cells := [] }

/-- DESIGN CHOICE (log entry 1, unsafe): MEM_SIZE in the model's reset state. R10 makes MEM_SIZE a parameter;
the model launches with the largest, so that the whole 32-bit address space is memory. -/
def launchSize : Nat := Config.maxMemSize

end Memory

/-- The access widths n in {1, 2, 4} (R12, R52). -/
inductive Width where
  | byte
  | half
  | word
deriving DecidableEq, Repr

/-- The number of bytes an access moves (R52). -/
def Width.bytes : Width → Nat
  | .byte => 1
  | .half => 2
  | .word => 4

/-- The number of bits of the value an access moves, n*8 (R44). -/
@[reducible] def Width.bits : Width → Nat
  | .byte => 8
  | .half => 16
  | .word => 32

namespace Memory

/-- `{ mem[a+n-1], ..., mem[a+1], mem[a] }`: the n-byte little-endian value at `a` (R43, R44). -/
def gather (m : Memory) (a : Nat) : (n : Width) → BitVec n.bits
  | .byte => m.byteAt a
  | .half => m.byteAt (a + 1) ++ m.byteAt a
  | .word => m.byteAt (a + 3) ++ m.byteAt (a + 2) ++ m.byteAt (a + 1) ++ m.byteAt a

/-- `mem[a+i] <- v[8i+7:8i]` for i in 0 .. n-1 (R43, R45). -/
def scatter (m : Memory) (a : Nat) (v : Word) : Nat → Memory
  | 0 => m
  | n + 1 => (scatter m a v n).setByte (a + n) (v.extractLsb' (8 * n) 8)

end Memory

end Sys2Proof.Machine
end

