-- ==== Sys2Proof/Machine/State.lean ====
section
/-! DEFINITION. The state of the block: the Cpu's register file, pc and run state, and the Memory it is given
(10_state.md, R20 to R36). There are no flags, control registers or hidden state (R29, R30, R31, R34). -/

namespace Sys2Proof.Machine

/-- FaultKind (R210): the three faults a step can raise. A step that raises one takes the fault entry of R212,
which is a NEXT state (`raise`, Machine/Ops.lean; log entry 2); a step of an already faulted Cpu answers
`.fault` with the kind that is stored (R101). -/
inductive Fault where
  /-- OutOfBounds: an access of n bytes at a with a + n > MEM_SIZE. Raised by the fetch and by LB, LH, LW, LBU,
  LHU, SB, SH, SW (R213). The spec's own fault, so stopping with it is safe. -/
  | outOfBounds
  /-- IllegalInstruction: the fetched word matches no supported pattern. Raised by the decode stage of a step
  (R214). The spec's own fault, so stopping with it is safe. -/
  | illegalInstruction
  /-- MisalignedAccess: a fetch pc, or the target of a JAL, a JALR or a taken branch, is not a multiple of 4
  (R215). The spec's own fault, so stopping with it is safe. -/
  | misalignedAccess
deriving DecidableEq, Repr

/-- Why an instruction has no meaning in the model. No arm of `exec` uses it: all 38 instructions have their
meaning. -/
inductive Refusal where
  /-- an instruction of the table without a meaning; raised by no arm (safe: the model would stop) -/
  | notModelled (mnemonic : String)
deriving DecidableEq, Repr

/-- The run state, the block's only control state (R28). -/
inductive RunState where
  | running
  | faulted (k : Fault)
deriving DecidableEq, Repr

/-- The Cpu state and the Memory state (R35, R36). -/
structure State where
  /-- the register file; the cell of index 0 is never read and never written, and x0 reads 0 (R21, R22, R36;
  log entry 4) -/
  regs : Vector Word 32
  /-- the program counter (R25) -/
  pc : Word
  /-- running, or faulted with a kind (R28) -/
  run : RunState
  /-- the Memory the step is given (R33) -/
  mem : Memory
deriving DecidableEq, Repr

/-- The state right after `Memory.new(launchSize)` and `Cpu.new()` (R35, R240, R244): every register 0, pc 0,
running, every byte of memory 0. -/
def State.reset : State :=
  { regs := Vector.replicate 32 0#32, pc := 0#32, run := .running, mem := Memory.zeroed Memory.launchSize }

end Sys2Proof.Machine
end

