-- ==== Sys2Proof/Machine/Ops.lean ====
section
/-! DEFINITION. The named operations every instruction is written over: registers (R21, R22), the checked
memory primitives (R44, R45), the effect of an instruction and its commit (R104, R106), taking a fault (R212),
and the fetch (R102). The block has no return from a fault (R221); it is left by reset only (HostPort). -/

namespace Sys2Proof.Machine

/-! ## Field updates -/

namespace State

/-- The state with another register file. -/
def setRegs (s : State) (r : Vector Word 32) : State := { s with regs := r }

/-- The state with another pc. -/
def setPc (s : State) (a : Word) : State := { s with pc := a }

/-- The state with another run state. -/
def setRun (s : State) (r : RunState) : State := { s with run := r }

/-- The state with another memory. -/
def setMem (s : State) (m : Memory) : State := { s with mem := m }

end State

/-! ## Registers -/

/-- `x[i]`: reads 0 when i = 0, in every state (R15, R21). -/
def readReg (s : State) (i : RegIdx) : Word := if i = 0 then 0#32 else s.regs[i]

/-- `x[i] <- v`: discarded when i = 0, else all 32 bits of register i become v (R15, R22). -/
def writeReg (s : State) (i : RegIdx) (v : Word) : State :=
  if i = 0 then s else s.setRegs (s.regs.set i v)

/-! ## Memory -/

/-- The bounds condition of R46: a + n <= MEM_SIZE over the naturals, with the address read as unsigned. -/
abbrev inBounds (m : Memory) (addr : Word) (n : Width) : Prop := addr.toNat + n.bytes ≤ m.size

/-- `MemRead(addr, n)` (R44): the n-byte little-endian value, or OutOfBounds. -/
def memRead (m : Memory) (addr : Word) (n : Width) : Except Fault (BitVec n.bits) :=
  if inBounds m addr n then .ok (m.gather addr.toNat n) else .error .outOfBounds

/-- `MemWrite(addr, n, v)` (R45): the memory with the low n bytes of v at addr, or OutOfBounds and no byte
written. -/
def memWrite (m : Memory) (addr : Word) (n : Width) (v : Word) : Except Fault Memory :=
  if inBounds m addr n then .ok (m.scatter addr.toNat v n.bytes) else .error .outOfBounds

/-! ## Execute and commit -/

/-- One store: `MemWrite(addr, n, v)` staged (R104). -/
structure Store where
  addr : Word
  width : Width
  value : Word
deriving DecidableEq, Repr

/-- The effect of an instruction (R104): at most one register write, at most one store, the next pc. -/
structure Effect where
  reg : Option (RegIdx × Word)
  store : Option Store
  next : Word
deriving DecidableEq, Repr

/-- The store of a commit. Its bounds were checked in execute (R104, R106). -/
def commitStore (s : State) : Option Store → State
  | none => s
  | some w => s.setMem (s.mem.scatter w.addr.toNat w.value w.width.bytes)

/-- The register write of a commit, discarded when it names x0 (R106). -/
def commitReg (s : State) : Option (RegIdx × Word) → State
  | none => s
  | some (i, v) => writeReg s i v

/-- The commit of R106: the store, then the register, then the pc. The effect was computed from the state
before the step. -/
def commit (e : Effect) (s : State) : State :=
  (commitReg (commitStore s e.store) e.reg).setPc e.next

/-- Taking a fault (R212, R220): every staged write is discarded, run becomes faulted(k), and nothing else
changes. No register saves the pc or a status, no mode changes, and the pc goes nowhere: it stays at the
instruction whose fetch, decode or execute faulted. The spec describes this entry, so it is a next state (log
entry 2). -/
def raise (k : Fault) (s : State) : Host.Outcome State Fault Refusal :=
  .next (s.setRun (.faulted k))

/-- A step in the faulted state changes nothing and reports the stored fault again (R101): the machine has
stopped (log entry 2). -/
def reportAgain (k : Fault) (_ : State) : Host.Outcome State Fault Refusal := .fault k

/-- The end of execute (R106): commit the effect, or take the fault that was raised. -/
def settle (r : Except Fault Effect) (s : State) : Host.Outcome State Fault Refusal :=
  match r with
  | .ok e => .next (commit e s)
  | .error k => raise k s

/-! ## Fetch and decode -/

/-- The alignment of instruction addresses: pc[1:0] == 2'b00 (R9, R102, R180). -/
abbrev aligned (a : Word) : Prop := a.extractLsb' 0 2 = 0#2

/-- The fetch of R102: the alignment check, then `MemRead(pc, 4)`. -/
def fetch (s : State) : Except Fault Word :=
  if aligned s.pc then memRead s.mem s.pc .word else .error .misalignedAccess

/-- Fetch and decode: the instruction at pc, or the first fault in the order of R218 (R102, R103). -/
def fetchInstr (s : State) : Except Fault Instr :=
  match fetch s with
  | .error k => .error k
  | .ok w =>
    match decode w with
    | .ok i => .ok i
    | .error _ => .error .illegalInstruction

end Sys2Proof.Machine
end

