-- ==== Sys2Proof/Machine/Operands.lean ====
section
/-! DEFINITION. The operand forms of the block: the one addressing mode of loads and stores (R160), the two
extensions of a loaded value (R14, R162 to R166), shift amounts (R81, R123), and the targets and the link value
of control transfers (R180 to R183). -/

namespace Sys2Proof.Machine

/-- `EA = x[rs1] + imm`, modulo 2^32 (R160, decision D4). -/
def effectiveAddress (s : State) (rs1 : RegIdx) (imm : Word) : Word := readReg s rs1 + imm

/-- How a loaded value becomes 32 bits (R14). -/
inductive Extension where
  | signed
  | unsigned
deriving DecidableEq, Repr

/-- `sext_32(v)` or `zext_32(v)` (R14). -/
def extend (x : Extension) {n : Nat} (v : BitVec n) : Word :=
  match x with
  | .signed => v.signExtend 32
  | .unsigned => v.setWidth 32

/-- The shift amount of SLL, SRL and SRA: x[rs2][4:0] (R123, R127, R128). -/
def shiftAmount (v : Word) : Nat := (v.extractLsb' 0 5).toNat

/-- The address of the next instruction in memory, pc + 4 modulo 2^32 (R27, R105); also the link value of JAL and
JALR (R181, R182). -/
def sequentialPc (s : State) : Word := s.pc + 4#32

/-- The pc-relative target of JAL and of the branches, pc + imm modulo 2^32 (R181, R183). -/
def relativeTarget (s : State) (imm : Word) : Word := s.pc + imm

/-- The target of JALR: (x[rs1] + imm) & ~1 (R182). -/
def indirectTarget (s : State) (rs1 : RegIdx) (imm : Word) : Word := (readReg s rs1 + imm) &&& ~~~1#32

/-- `CheckTarget(t)` (R180): the target, or MisalignedAccess. The memory bounds are not checked. -/
def checkTarget (t : Word) : Except Fault Word :=
  if aligned t then .ok t else .error .misalignedAccess

/-! ## The shapes an instruction's effect has -/

/-- An instruction that writes rd and goes on at pc + 4 (R120, R140). -/
def resultEffect (s : State) (rd : RegIdx) (v : Word) : Except Fault Effect :=
  .ok { reg := some (rd, v), store := none, next := sequentialPc s }

/-- A load (R161): `MemRead`, the extension, the write of rd; the read is done whatever rd is (R170). -/
def loadEffect (s : State) (n : Width) (x : Extension) (rd rs1 : RegIdx) (imm : Word) : Except Fault Effect :=
  match memRead s.mem (effectiveAddress s rs1 imm) n with
  | .ok v => resultEffect s rd (extend x v)
  | .error k => .error k

/-- A store (R161): the bounds check is done in execute, the bytes are staged for the commit (R104). -/
def storeEffect (s : State) (n : Width) (rs1 rs2 : RegIdx) (imm : Word) : Except Fault Effect :=
  if inBounds s.mem (effectiveAddress s rs1 imm) n then
    .ok { reg := none, store := some ⟨effectiveAddress s rs1 imm, n, readReg s rs2⟩, next := sequentialPc s }
  else .error .outOfBounds

/-- JAL and JALR (R181, R182): the checked target, and the link pc + 4 into rd. -/
def jumpEffect (s : State) (rd : RegIdx) (target : Word) : Except Fault Effect :=
  match checkTarget target with
  | .ok t => .ok { reg := some (rd, sequentialPc s), store := none, next := t }
  | .error k => .error k

/-- A conditional branch (R183): the target is checked only when the branch is taken. -/
def branchEffect (s : State) (taken : Bool) (imm : Word) : Except Fault Effect :=
  if taken then
    match checkTarget (relativeTarget s imm) with
    | .ok t => .ok { reg := none, store := none, next := t }
    | .error k => .error k
  else .ok { reg := none, store := none, next := sequentialPc s }

/-- An instruction that changes only the pc (R200). -/
def nopEffect (s : State) : Except Fault Effect :=
  .ok { reg := none, store := none, next := sequentialPc s }

end Sys2Proof.Machine
end

