-- ==== Sys2Proof/Machine/Control.lean ====
section
/-! DEFINITION. Control transfer (44_control_transfer.md, R180 to R190). No delay slot: the next step fetches from
the target (R190). -/

namespace Sys2Proof.Machine

/-- JAL (R181): t = pc + imm_J, checked; `x[rd] <- pc + 4`; `pc <- t`. -/
def execJal (rd : RegIdx) (imm : Word) (s : State) : Host.Outcome State Fault Refusal :=
  settle (jumpEffect s rd (relativeTarget s imm)) s

/-- JALR (R182): t = (x[rs1] + imm_I) & ~1, checked; `x[rd] <- pc + 4`; `pc <- t`, the target from the old
x[rs1]. -/
def execJalr (rd rs1 : RegIdx) (imm : Word) (s : State) : Host.Outcome State Fault Refusal :=
  settle (jumpEffect s rd (indirectTarget s rs1 imm)) s

/-- BEQ (R184): taken when `x[rs1] == x[rs2]`. -/
def execBeq (rs1 rs2 : RegIdx) (imm : Word) (s : State) : Host.Outcome State Fault Refusal :=
  settle (branchEffect s (readReg s rs1 == readReg s rs2) imm) s

/-- BNE (R185): taken when `x[rs1] != x[rs2]`. -/
def execBne (rs1 rs2 : RegIdx) (imm : Word) (s : State) : Host.Outcome State Fault Refusal :=
  settle (branchEffect s (readReg s rs1 != readReg s rs2) imm) s

/-- BLT (R186): taken when `signed(x[rs1]) < signed(x[rs2])`. -/
def execBlt (rs1 rs2 : RegIdx) (imm : Word) (s : State) : Host.Outcome State Fault Refusal :=
  settle (branchEffect s (lessSigned (readReg s rs1) (readReg s rs2)) imm) s

/-- BGE (R187): taken when `signed(x[rs1]) >= signed(x[rs2])`. -/
def execBge (rs1 rs2 : RegIdx) (imm : Word) (s : State) : Host.Outcome State Fault Refusal :=
  settle (branchEffect s (!lessSigned (readReg s rs1) (readReg s rs2)) imm) s

/-- BLTU (R188): taken when `unsigned(x[rs1]) < unsigned(x[rs2])`. -/
def execBltu (rs1 rs2 : RegIdx) (imm : Word) (s : State) : Host.Outcome State Fault Refusal :=
  settle (branchEffect s (lessUnsigned (readReg s rs1) (readReg s rs2)) imm) s

/-- BGEU (R189): taken when `unsigned(x[rs1]) >= unsigned(x[rs2])`. -/
def execBgeu (rs1 rs2 : RegIdx) (imm : Word) (s : State) : Host.Outcome State Fault Refusal :=
  settle (branchEffect s (!lessUnsigned (readReg s rs1) (readReg s rs2)) imm) s

end Sys2Proof.Machine
end

