-- ==== Sys2Proof/Machine/Fence.lean ====
section
/-! DEFINITION. FENCE (45_fence.md, R200): one hart and an unbuffered memory leave it nothing to order (R59). -/

namespace Sys2Proof.Machine

/-- FENCE (R200): `pc <- pc + 4` for every fm, pred and succ, and nothing else (R88). -/
def execFence (_fm _pred _succ : BitVec 4) (s : State) : Host.Outcome State Fault Refusal :=
  settle (nopEffect s) s

end Sys2Proof.Machine
end

