-- ==== Sys2Proof/Machine/LoadStore.lean ====
section
/-! DEFINITION. Loads and stores (43_load_store.md, R160 to R170). The one execute fault is OutOfBounds (R161);
misaligned addresses are performed (R50). -/

namespace Sys2Proof.Machine

/-- LB (R162): `x[rd] <- sext_32(MemRead(x[rs1] + imm_I, 1))`. -/
def execLb (rd rs1 : RegIdx) (imm : Word) (s : State) : Host.Outcome State Fault Refusal :=
  settle (loadEffect s .byte .signed rd rs1 imm) s

/-- LH (R163): `x[rd] <- sext_32(MemRead(x[rs1] + imm_I, 2))`. -/
def execLh (rd rs1 : RegIdx) (imm : Word) (s : State) : Host.Outcome State Fault Refusal :=
  settle (loadEffect s .half .signed rd rs1 imm) s

/-- LW (R164): `x[rd] <- MemRead(x[rs1] + imm_I, 4)`; four bytes need no extension. -/
def execLw (rd rs1 : RegIdx) (imm : Word) (s : State) : Host.Outcome State Fault Refusal :=
  settle (loadEffect s .word .unsigned rd rs1 imm) s

/-- LBU (R165): `x[rd] <- zext_32(MemRead(x[rs1] + imm_I, 1))`. -/
def execLbu (rd rs1 : RegIdx) (imm : Word) (s : State) : Host.Outcome State Fault Refusal :=
  settle (loadEffect s .byte .unsigned rd rs1 imm) s

/-- LHU (R166): `x[rd] <- zext_32(MemRead(x[rs1] + imm_I, 2))`. -/
def execLhu (rd rs1 : RegIdx) (imm : Word) (s : State) : Host.Outcome State Fault Refusal :=
  settle (loadEffect s .half .unsigned rd rs1 imm) s

/-- SB (R167): `MemWrite(x[rs1] + imm_S, 1, x[rs2][7:0])`. -/
def execSb (rs1 rs2 : RegIdx) (imm : Word) (s : State) : Host.Outcome State Fault Refusal :=
  settle (storeEffect s .byte rs1 rs2 imm) s

/-- SH (R168): `MemWrite(x[rs1] + imm_S, 2, x[rs2][15:0])`. -/
def execSh (rs1 rs2 : RegIdx) (imm : Word) (s : State) : Host.Outcome State Fault Refusal :=
  settle (storeEffect s .half rs1 rs2 imm) s

/-- SW (R169): `MemWrite(x[rs1] + imm_S, 4, x[rs2])`. -/
def execSw (rs1 rs2 : RegIdx) (imm : Word) (s : State) : Host.Outcome State Fault Refusal :=
  settle (storeEffect s .word rs1 rs2 imm) s

end Sys2Proof.Machine
end

