-- ==== Sys2Proof/Machine/RegImm.lean ====
section
/-! DEFINITION. Register-immediate arithmetic and the upper immediates (42_register_immediate.md, R140 to R151).
`imm` is imm_I or imm_U as R80 assembles it, `shamt` the 5-bit shift amount of R81. -/

namespace Sys2Proof.Machine

/-- ADDI (R141): `x[rd] <- x[rs1] + imm_I`. -/
def execAddi (rd rs1 : RegIdx) (imm : Word) (s : State) : Host.Outcome State Fault Refusal :=
  settle (resultEffect s rd (readReg s rs1 + imm)) s

/-- SLTI (R142): `x[rd] <- (signed(x[rs1]) < signed(imm_I)) ? 1 : 0`. -/
def execSlti (rd rs1 : RegIdx) (imm : Word) (s : State) : Host.Outcome State Fault Refusal :=
  settle (resultEffect s rd (flagValue (lessSigned (readReg s rs1) imm))) s

/-- SLTIU (R143): `x[rd] <- (unsigned(x[rs1]) < unsigned(imm_I)) ? 1 : 0`. -/
def execSltiu (rd rs1 : RegIdx) (imm : Word) (s : State) : Host.Outcome State Fault Refusal :=
  settle (resultEffect s rd (flagValue (lessUnsigned (readReg s rs1) imm))) s

/-- XORI (R144): `x[rd] <- x[rs1] ^ imm_I`. -/
def execXori (rd rs1 : RegIdx) (imm : Word) (s : State) : Host.Outcome State Fault Refusal :=
  settle (resultEffect s rd (readReg s rs1 ^^^ imm)) s

/-- ORI (R145): `x[rd] <- x[rs1] | imm_I`. -/
def execOri (rd rs1 : RegIdx) (imm : Word) (s : State) : Host.Outcome State Fault Refusal :=
  settle (resultEffect s rd (readReg s rs1 ||| imm)) s

/-- ANDI (R146): `x[rd] <- x[rs1] & imm_I`. -/
def execAndi (rd rs1 : RegIdx) (imm : Word) (s : State) : Host.Outcome State Fault Refusal :=
  settle (resultEffect s rd (readReg s rs1 &&& imm)) s

/-- SLLI (R147): `x[rd] <- x[rs1] << shamt`. -/
def execSlli (rd rs1 : RegIdx) (shamt : BitVec 5) (s : State) : Host.Outcome State Fault Refusal :=
  settle (resultEffect s rd (readReg s rs1 <<< shamt.toNat)) s

/-- SRLI (R148): `x[rd] <- x[rs1] >>u shamt`. -/
def execSrli (rd rs1 : RegIdx) (shamt : BitVec 5) (s : State) : Host.Outcome State Fault Refusal :=
  settle (resultEffect s rd (readReg s rs1 >>> shamt.toNat)) s

/-- SRAI (R149): `x[rd] <- x[rs1] >>s shamt`. -/
def execSrai (rd rs1 : RegIdx) (shamt : BitVec 5) (s : State) : Host.Outcome State Fault Refusal :=
  settle (resultEffect s rd ((readReg s rs1).sshiftRight shamt.toNat)) s

/-- AUIPC (R150): `x[rd] <- pc + imm_U`, pc being the address of this AUIPC. -/
def execAuipc (rd : RegIdx) (imm : Word) (s : State) : Host.Outcome State Fault Refusal :=
  settle (resultEffect s rd (s.pc + imm)) s

/-- LUI (R151): `x[rd] <- imm_U`. -/
def execLui (rd : RegIdx) (imm : Word) (s : State) : Host.Outcome State Fault Refusal :=
  settle (resultEffect s rd imm) s

end Sys2Proof.Machine
end

