-- ==== Sys2Proof/Machine/RegReg.lean ====
section
/-! DEFINITION. Register-register arithmetic, opcode OP (41_register_register.md, R120 to R130). No instruction here
faults at execute (R120); arithmetic wraps modulo 2^32. -/

namespace Sys2Proof.Machine

/-- ADD (R121): `x[rd] <- x[rs1] + x[rs2]`. -/
def execAdd (rd rs1 rs2 : RegIdx) (s : State) : Host.Outcome State Fault Refusal :=
  settle (resultEffect s rd (readReg s rs1 + readReg s rs2)) s

/-- SUB (R122): `x[rd] <- x[rs1] - x[rs2]`. -/
def execSub (rd rs1 rs2 : RegIdx) (s : State) : Host.Outcome State Fault Refusal :=
  settle (resultEffect s rd (readReg s rs1 - readReg s rs2)) s

/-- SLL (R123): `x[rd] <- x[rs1] << x[rs2][4:0]`. -/
def execSll (rd rs1 rs2 : RegIdx) (s : State) : Host.Outcome State Fault Refusal :=
  settle (resultEffect s rd (readReg s rs1 <<< shiftAmount (readReg s rs2))) s

/-- SLT (R124): `x[rd] <- (signed(x[rs1]) < signed(x[rs2])) ? 1 : 0`. -/
def execSlt (rd rs1 rs2 : RegIdx) (s : State) : Host.Outcome State Fault Refusal :=
  settle (resultEffect s rd (flagValue (lessSigned (readReg s rs1) (readReg s rs2)))) s

/-- SLTU (R125): `x[rd] <- (unsigned(x[rs1]) < unsigned(x[rs2])) ? 1 : 0`. -/
def execSltu (rd rs1 rs2 : RegIdx) (s : State) : Host.Outcome State Fault Refusal :=
  settle (resultEffect s rd (flagValue (lessUnsigned (readReg s rs1) (readReg s rs2)))) s

/-- XOR (R126): `x[rd] <- x[rs1] ^ x[rs2]`. -/
def execXor (rd rs1 rs2 : RegIdx) (s : State) : Host.Outcome State Fault Refusal :=
  settle (resultEffect s rd (readReg s rs1 ^^^ readReg s rs2)) s

/-- SRL (R127): `x[rd] <- x[rs1] >>u x[rs2][4:0]`. -/
def execSrl (rd rs1 rs2 : RegIdx) (s : State) : Host.Outcome State Fault Refusal :=
  settle (resultEffect s rd (readReg s rs1 >>> shiftAmount (readReg s rs2))) s

/-- SRA (R128): `x[rd] <- x[rs1] >>s x[rs2][4:0]`. -/
def execSra (rd rs1 rs2 : RegIdx) (s : State) : Host.Outcome State Fault Refusal :=
  settle (resultEffect s rd ((readReg s rs1).sshiftRight (shiftAmount (readReg s rs2)))) s

/-- OR (R129): `x[rd] <- x[rs1] | x[rs2]`. -/
def execOr (rd rs1 rs2 : RegIdx) (s : State) : Host.Outcome State Fault Refusal :=
  settle (resultEffect s rd (readReg s rs1 ||| readReg s rs2)) s

/-- AND (R130): `x[rd] <- x[rs1] & x[rs2]`. -/
def execAnd (rd rs1 rs2 : RegIdx) (s : State) : Host.Outcome State Fault Refusal :=
  settle (resultEffect s rd (readReg s rs1 &&& readReg s rs2)) s

end Sys2Proof.Machine
end

