-- ==== Sys2Proof/Machine/Step.lean ====
section
/-! DEFINITION. The step (40_datapath_step.md, R100 to R109): the block's one transition. -/

namespace Sys2Proof.Machine

/-- `Cpu.step(memory)`. In the faulted state it reports the stored fault again (R101). In the running state it
fetches and decodes the word at pc (R102, R103) and executes the instruction (R104, R106), or takes the first
fault in the order of R218. -/
def step (s : State) : Host.Outcome State Fault Refusal :=
  match s.run with
  | .faulted k => reportAgain k s
  | .running =>
    match fetchInstr s with
    | .ok i => exec i s
    | .error k => raise k s

/-- The state with one instruction word stored where the next step fetches, at pc, as the host's loader stores
it: `Memory.store(pc, w, 4)` (R48, R246; log entry 3). Where that store would be out of bounds nothing is
written. -/
def State.withFetchWord (s : State) (nbits w : Nat) : State :=
  match memWrite s.mem s.pc .word (BitVec.ofNat 32 (w % 2 ^ nbits)) with
  | .ok m => s.setMem m
  | .error _ => s

end Sys2Proof.Machine
end

