-- ==== Sys2Proof/Machine/HostPort.lean ====
section
/-! DEFINITION. The host interface (70_reset_and_hazards.md, R240 to R251; R41, R47, R48): what the host can do
to the block between steps, and what the block answers. Host actions and steps are interleaved whole (R57,
R245). -/

namespace Sys2Proof.Machine

/-! ## The Memory's operations -/

/-- Why `Memory.new` gives no memory. -/
inductive CreateError where
  /-- `size == 0` (R41, R211) -/
  | invalidSize
  /-- a size above 2^32, outside the model's parameter (R10, D3): refused by name, DESIGN CHOICE (log entry 6) -/
  | sizeBeyondModel
deriving DecidableEq, Repr

/-- `Memory.new(size)` (R41): `size` bytes of 8'h00, or the failure. -/
def newMemory (size : Nat) : Except CreateError Memory :=
  if size < Config.minMemSize then .error .invalidSize
  else if Config.maxMemSize < size then .error .sizeBeyondModel
  else .ok (Memory.zeroed size)

/-- `Memory.load(addr, width, signedness)` (R47): `MemRead`, extended to 32 bits as the caller asks. -/
def hostLoad (m : Memory) (addr : Word) (n : Width) (x : Extension) : Except Fault Word :=
  match memRead m addr n with
  | .ok v => .ok (extend x v)
  | .error k => .error k

/-- `Memory.store(addr, value, width)` (R48): `MemWrite`. -/
def hostStore (m : Memory) (addr v : Word) (n : Width) : Except Fault Memory := memWrite m addr n v

/-! ## The Cpu's operations -/

/-- `Cpu.new()` beside a memory (R240): every register 0, pc 0, running. -/
def newCpu (m : Memory) : State :=
  { regs := Vector.replicate 32 0#32, pc := 0#32, run := .running, mem := m }

/-- `Cpu.reset()` (R241): every register and pc 0, running, a stored fault kind lost, memory untouched (R63). -/
def cpuReset (s : State) : State := newCpu s.mem

/-- `set_register(i, v)`, the test hook (R248): `x[i] <- v`, and nothing else. -/
def setRegister (s : State) (i : RegIdx) (v : Word) : State := writeReg s i v

/-- StepResult (R100): what a step returns. -/
inductive StepResult where
  | ok
  | fault (k : Fault)
deriving DecidableEq, Repr

/-- The result a step that ended in state `s` returns: Ok when it left the Cpu running (R108), Fault(k) when it
left it faulted(k) (R212). -/
def resultOf (s : State) : StepResult :=
  match s.run with
  | .running => .ok
  | .faulted k => .fault k

/-- `Cpu.step(memory)` with the new Cpu state, the new Memory and the StepResult (R36, R100). A `.fault k` of `step` is
the faulted Cpu's re-report: nothing changes (R101). `none` would be an instruction without a meaning; there is
none. -/
def cpuStep (s : State) : Option (State × StepResult) :=
  match step s with
  | .next t => some (t, resultOf t)
  | .fault k => some (s, .fault k)
  | .refused _ => none

/-! ## Host actions -/

/-- One action of the host, between steps (R250). A register index outside 0 to 31 cannot be written down here
(R249, D26; log entry 7). -/
inductive HostAction where
  | store (addr v : Word) (n : Width)
  | load (addr : Word) (n : Width) (x : Extension)
  | reset
  | step
  | register (i : RegIdx)
  | pc
  | setRegister (i : RegIdx) (v : Word)
deriving DecidableEq, Repr

/-- What the block returns to the host (R250). -/
inductive HostAnswer where
  | unit
  | value (v : Word)
  | error (k : Fault)
  | stepped (r : StepResult)
  | refused
deriving DecidableEq, Repr

/-- One host action on the block: the state after it, and the answer (R250). -/
def perform (a : HostAction) (s : State) : State × HostAnswer :=
  match a with
  | .store addr v n =>
    match hostStore s.mem addr v n with
    | .ok m => (s.setMem m, .unit)
    | .error k => (s, .error k)
  | .load addr n x =>
    match hostLoad s.mem addr n x with
    | .ok v => (s, .value v)
    | .error k => (s, .error k)
  | .reset => (cpuReset s, .unit)
  | .step =>
    match cpuStep s with
    | some (t, r) => (t, .stepped r)
    | none => (s, .refused)
  | .register i => (s, .value (readReg s i))
  | .pc => (s, .value s.pc)
  | .setRegister i v => (setRegister s i v, .unit)

/-- A sequence of host actions, in order (R57, R247, R251). -/
def performAll : List HostAction → State → State
  | [], s => s
  | a :: rest, s => performAll rest (perform a s).1

end Sys2Proof.Machine
end

