-- ==== Sys2Proof/Safety.lean ====
section
/-! DEFINITION. What counts as a legal state and as a safe run of the block, in the terms the claims use. -/

namespace Sys2Proof.Machine

/-- The invariant of the block: the memory is in its canonical form (R32, R41), the pc is a multiple of 4 (R26),
and the register file's cell of index 0 holds 0, which x0 is hard-wired to (R21; log entry 4). -/
structure State.Inv (s : State) : Prop where
  mem_wf : s.mem.wf
  pc_aligned : aligned s.pc
  zero_cell : s.regs[0] = 0#32

/-- The state after exactly n steps that each returned Ok, if there is one (R251 (b)). -/
def afterOk : Nat → State → Option State
  | 0, s => some s
  | n + 1, s =>
    match cpuStep s with
    | some (t, .ok) => afterOk n t
    | _ => none

/-- The run from `s` ends at its first fault: n Ok steps lead to a state whose step returns Fault(k) and leaves
`t` (R251 (a)). -/
def EndsIn (s : State) (n : Nat) (k : Fault) (t : State) : Prop :=
  ∃ u, afterOk n s = some u ∧ cpuStep u = some (t, .fault k)

/-- A run of n steps is safe when no step of it returns a fault. -/
def SafeFor (s : State) (n : Nat) : Prop := (afterOk n s).isSome

end Sys2Proof.Machine
end

