-- ==== Sys2Proof/Certificates/Slice0/Obligations.lean ====
section
/-! DEFINITION. The statements for the provers, each a `def Obligations.<Name> : Prop`, and the words they are said
in. A statement speaks of a state through `readReg` (R21), `pc`, `run` and `Memory.byteAt` (one byte of memory).
Many rules that the statements cite carry the spec's own marks 'from general knowledge, not in source' or 'decision D<n>';
OBLIGATIONS.json names them for each statement. -/

namespace Sys2Proof.Claims

open Sys2Proof Sys2Proof.Machine

/-! ## What stays and what changes -/

/-- Every general register reads as before. -/
def SameRegs (s t : State) : Prop := ∀ r, readReg t r = readReg s r

/-- Every byte of memory reads as before, and the memory has its size. -/
def SameMemory (s t : State) : Prop :=
  t.mem.size = s.mem.size ∧ ∀ a, t.mem.byteAt a = s.mem.byteAt a

/-- `t` is `s` with `v` in register rd (nothing written when rd is x0) and the pc at `next`; every other register, all
of memory and the run state are as before. -/
def WritesReg (s t : State) (rd : RegIdx) (v next : Word) : Prop :=
  readReg t rd = (if rd = 0 then 0#32 else v) ∧ (∀ r, r ≠ rd → readReg t r = readReg s r) ∧
  t.pc = next ∧ SameMemory s t ∧ t.run = s.run

/-- `t` is `s` with the pc at `next`; every register, all of memory and the run state are as before. -/
def ChangesPcOnly (s t : State) (next : Word) : Prop :=
  SameRegs s t ∧ t.pc = next ∧ SameMemory s t ∧ t.run = s.run

/-- `t` is `s` with the low n bytes of `v` at the addresses a .. a+n-1, low byte first, and the pc at pc + 4; every byte
outside them, every register and the run state are as before. -/
def StoresBytes (s t : State) (a n : Nat) (v : Word) : Prop :=
  (∀ i, i < n → t.mem.byteAt (a + i) = v.extractLsb' (8 * i) 8) ∧
  (∀ b, b < a ∨ a + n ≤ b → t.mem.byteAt b = s.mem.byteAt b) ∧ t.mem.size = s.mem.size ∧
  SameRegs s t ∧ t.pc = s.pc + 4#32 ∧ t.run = s.run

/-- The fault entry of R212: run becomes faulted(k), and no register, no byte of memory and not the pc changes. -/
def EntersFault (s t : State) (k : Fault) : Prop :=
  SameRegs s t ∧ t.pc = s.pc ∧ SameMemory s t ∧ t.run = .faulted k

/-! ## Values -/

/-- The n bytes from `a` up, read as one little-endian number (R43). -/
def bytesValue (m : Memory) : Nat → Nat → Nat
  | _, 0 => 0
  | a, n + 1 => (m.byteAt a).toNat + 256 * bytesValue m (a + 1) n

/-- The word at `a`. -/
def wordAt (m : Memory) (a : Nat) : Word := BitVec.ofNat 32 (bytesValue m a 4)

/-- 1 when the comparison holds, else 0. -/
def boolWord (c : Prop) [Decidable c] : Word := if c then 1#32 else 0#32

/-- The address a load or store reaches, as a number: the meaning's own function (R160). -/
def ea (s : State) (rs1 : RegIdx) (imm : Word) : Nat := (effectiveAddress s rs1 imm).toNat

/-! ## Encodings -/

/-- A word matches when `(word & mask) == match` (R84), and every word that matches decodes to the instruction that
`build` takes from the word's fields. -/
def EncodedAs (pattern mask : Word) (build : Word → Instr) : Prop :=
  ∀ w : Word, w &&& mask = pattern → decode w = .ok (build w)

/-- LUI, AUIPC, JAL, JALR: match, mask and variant (R84, R85). -/
def upperAndJumpRows : List (Row × (Word → Instr)) :=
  [(⟨0x00000037#32, 0x0000007F#32⟩, fun w => .lui (rdField w) (immU w)),
   (⟨0x00000017#32, 0x0000007F#32⟩, fun w => .auipc (rdField w) (immU w)),
   (⟨0x0000006F#32, 0x0000007F#32⟩, fun w => .jal (rdField w) (immJ w)),
   (⟨0x00000067#32, 0x0000707F#32⟩, fun w => .jalr (rdField w) (rs1Field w) (immI w))]

/-- The branches (R84, R85). -/
def branchRows : List (Row × (Word → Instr)) :=
  [(⟨0x00000063#32, 0x0000707F#32⟩, fun w => .beq (rs1Field w) (rs2Field w) (immB w)),
   (⟨0x00001063#32, 0x0000707F#32⟩, fun w => .bne (rs1Field w) (rs2Field w) (immB w)),
   (⟨0x00004063#32, 0x0000707F#32⟩, fun w => .blt (rs1Field w) (rs2Field w) (immB w)),
   (⟨0x00005063#32, 0x0000707F#32⟩, fun w => .bge (rs1Field w) (rs2Field w) (immB w)),
   (⟨0x00006063#32, 0x0000707F#32⟩, fun w => .bltu (rs1Field w) (rs2Field w) (immB w)),
   (⟨0x00007063#32, 0x0000707F#32⟩, fun w => .bgeu (rs1Field w) (rs2Field w) (immB w))]

/-- The loads and stores (R84, R85). -/
def memoryRows : List (Row × (Word → Instr)) :=
  [(⟨0x00000003#32, 0x0000707F#32⟩, fun w => .lb (rdField w) (rs1Field w) (immI w)),
   (⟨0x00001003#32, 0x0000707F#32⟩, fun w => .lh (rdField w) (rs1Field w) (immI w)),
   (⟨0x00002003#32, 0x0000707F#32⟩, fun w => .lw (rdField w) (rs1Field w) (immI w)),
   (⟨0x00004003#32, 0x0000707F#32⟩, fun w => .lbu (rdField w) (rs1Field w) (immI w)),
   (⟨0x00005003#32, 0x0000707F#32⟩, fun w => .lhu (rdField w) (rs1Field w) (immI w)),
   (⟨0x00000023#32, 0x0000707F#32⟩, fun w => .sb (rs1Field w) (rs2Field w) (immS w)),
   (⟨0x00001023#32, 0x0000707F#32⟩, fun w => .sh (rs1Field w) (rs2Field w) (immS w)),
   (⟨0x00002023#32, 0x0000707F#32⟩, fun w => .sw (rs1Field w) (rs2Field w) (immS w))]

/-- The register-immediate instructions (R84, R85). -/
def immediateRows : List (Row × (Word → Instr)) :=
  [(⟨0x00000013#32, 0x0000707F#32⟩, fun w => .addi (rdField w) (rs1Field w) (immI w)),
   (⟨0x00002013#32, 0x0000707F#32⟩, fun w => .slti (rdField w) (rs1Field w) (immI w)),
   (⟨0x00003013#32, 0x0000707F#32⟩, fun w => .sltiu (rdField w) (rs1Field w) (immI w)),
   (⟨0x00004013#32, 0x0000707F#32⟩, fun w => .xori (rdField w) (rs1Field w) (immI w)),
   (⟨0x00006013#32, 0x0000707F#32⟩, fun w => .ori (rdField w) (rs1Field w) (immI w)),
   (⟨0x00007013#32, 0x0000707F#32⟩, fun w => .andi (rdField w) (rs1Field w) (immI w)),
   (⟨0x00001013#32, 0xFE00707F#32⟩, fun w => .slli (rdField w) (rs1Field w) (shamtField w)),
   (⟨0x00005013#32, 0xFE00707F#32⟩, fun w => .srli (rdField w) (rs1Field w) (shamtField w)),
   (⟨0x40005013#32, 0xFE00707F#32⟩, fun w => .srai (rdField w) (rs1Field w) (shamtField w))]

/-- The register-register instructions and FENCE (R84, R85). -/
def registerRows : List (Row × (Word → Instr)) :=
  [(⟨0x00000033#32, 0xFE00707F#32⟩, fun w => .add (rdField w) (rs1Field w) (rs2Field w)),
   (⟨0x40000033#32, 0xFE00707F#32⟩, fun w => .sub (rdField w) (rs1Field w) (rs2Field w)),
   (⟨0x00001033#32, 0xFE00707F#32⟩, fun w => .sll (rdField w) (rs1Field w) (rs2Field w)),
   (⟨0x00002033#32, 0xFE00707F#32⟩, fun w => .slt (rdField w) (rs1Field w) (rs2Field w)),
   (⟨0x00003033#32, 0xFE00707F#32⟩, fun w => .sltu (rdField w) (rs1Field w) (rs2Field w)),
   (⟨0x00004033#32, 0xFE00707F#32⟩, fun w => .xor (rdField w) (rs1Field w) (rs2Field w)),
   (⟨0x00005033#32, 0xFE00707F#32⟩, fun w => .srl (rdField w) (rs1Field w) (rs2Field w)),
   (⟨0x40005033#32, 0xFE00707F#32⟩, fun w => .sra (rdField w) (rs1Field w) (rs2Field w)),
   (⟨0x00006033#32, 0xFE00707F#32⟩, fun w => .or (rdField w) (rs1Field w) (rs2Field w)),
   (⟨0x00007033#32, 0xFE00707F#32⟩, fun w => .and (rdField w) (rs1Field w) (rs2Field w)),
   (⟨0x0000000F#32, 0x0000707F#32⟩, fun w => .fence (fmField w) (predField w) (succField w))]

/-- The table of R84 in its order, each row with the variant of R85 that it yields. -/
def tableRows : List (Row × (Word → Instr)) :=
  List.flatten [upperAndJumpRows, branchRows, memoryRows, immediateRows, registerRows]

/-! ## Families -/

/-- What a conditional branch does on the condition `c` (R183). -/
def BranchesOn (i : Instr) (s : State) (imm : Word) (c : Prop) : Prop :=
  (c → aligned (s.pc + imm) → ∃ t, exec i s = .next t ∧ ChangesPcOnly s t (s.pc + imm)) ∧
  (c → ¬ aligned (s.pc + imm) → ∃ t, exec i s = .next t ∧ EntersFault s t .misalignedAccess) ∧
  (¬ c → ∃ t, exec i s = .next t ∧ ChangesPcOnly s t (s.pc + 4#32))

/-- What a load of n bytes does, `v` being the value it gives rd (R161, R170). -/
def LoadsValue (i : Instr) (s : State) (n : Nat) (rd rs1 : RegIdx) (imm v : Word) : Prop :=
  (ea s rs1 imm + n ≤ s.mem.size → ∃ t, exec i s = .next t ∧ WritesReg s t rd v (s.pc + 4#32)) ∧
  (s.mem.size < ea s rs1 imm + n → ∃ t, exec i s = .next t ∧ EntersFault s t .outOfBounds)

/-- What a store of n bytes does (R161). -/
def StoresValue (i : Instr) (s : State) (n : Nat) (rs1 rs2 : RegIdx) (imm : Word) : Prop :=
  (ea s rs1 imm + n ≤ s.mem.size →
    ∃ t, exec i s = .next t ∧ StoresBytes s t (ea s rs1 imm) n (readReg s rs2)) ∧
  (s.mem.size < ea s rs1 imm + n → ∃ t, exec i s = .next t ∧ EntersFault s t .outOfBounds)

/-- SB, SH, SW: the only instructions with a memory part (R104). -/
def isStore : Instr → Bool
  | .sb _ _ _ | .sh _ _ _ | .sw _ _ _ => true
  | _ => false

/-- JAL, JALR and the conditional branches: the control transfers (R105). -/
def isTransfer : Instr → Bool
  | .jal _ _ | .jalr _ _ _ => true
  | .beq _ _ _ | .bne _ _ _ | .blt _ _ _ | .bge _ _ _ | .bltu _ _ _ | .bgeu _ _ _ => true
  | _ => false

/-- The destination register an instruction names, if its format has one that it writes (R104). -/
def destination : Instr → Option RegIdx
  | .lui rd _ | .auipc rd _ | .jal rd _ | .jalr rd _ _ => some rd
  | .lb rd _ _ | .lh rd _ _ | .lw rd _ _ | .lbu rd _ _ | .lhu rd _ _ => some rd
  | .addi rd _ _ | .slti rd _ _ | .sltiu rd _ _ | .xori rd _ _ | .ori rd _ _ | .andi rd _ _ => some rd
  | .slli rd _ _ | .srli rd _ _ | .srai rd _ _ => some rd
  | .add rd _ _ | .sub rd _ _ | .sll rd _ _ | .slt rd _ _ | .sltu rd _ _ => some rd
  | .xor rd _ _ | .srl rd _ _ | .sra rd _ _ | .or rd _ _ | .and rd _ _ => some rd
  | .beq _ _ _ | .bne _ _ _ | .blt _ _ _ | .bge _ _ _ | .bltu _ _ _ | .bgeu _ _ _ => none
  | .sb _ _ _ | .sh _ _ _ | .sw _ _ _ | .fence _ _ _ => none

/-- The data access of a load or store: its bytes, its base register and its offset (R160). -/
def dataAccess : Instr → Option (Nat × RegIdx × Word)
  | .lb _ rs1 imm | .lbu _ rs1 imm | .sb rs1 _ imm => some (1, rs1, imm)
  | .lh _ rs1 imm | .lhu _ rs1 imm | .sh rs1 _ imm => some (2, rs1, imm)
  | .lw _ rs1 imm | .sw rs1 _ imm => some (4, rs1, imm)
  | _ => none

/-- The target of an instruction that transfers control in this state: JAL, JALR, a branch that is taken (R180). -/
def transferTarget (s : State) : Instr → Option Word
  | .jal _ imm => some (s.pc + imm)
  | .jalr _ rs1 imm => some (BitVec.ofNat 32 (((readReg s rs1).toNat + imm.toNat) % 2 ^ 32 / 2 * 2))
  | .beq a b imm => if readReg s a = readReg s b then some (s.pc + imm) else none
  | .bne a b imm => if readReg s a ≠ readReg s b then some (s.pc + imm) else none
  | .blt a b imm => if (readReg s a).toInt < (readReg s b).toInt then some (s.pc + imm) else none
  | .bge a b imm => if (readReg s b).toInt ≤ (readReg s a).toInt then some (s.pc + imm) else none
  | .bltu a b imm => if (readReg s a).toNat < (readReg s b).toNat then some (s.pc + imm) else none
  | .bgeu a b imm => if (readReg s b).toNat ≤ (readReg s a).toNat then some (s.pc + imm) else none
  | _ => none

/-- The step fetches the word w: running, the pc aligned, the four bytes in bounds, and w those bytes (R102). -/
def Fetches (s : State) (w : Word) : Prop :=
  s.run = .running ∧ aligned s.pc ∧ s.pc.toNat + 4 ≤ s.mem.size ∧ w = wordAt s.mem s.pc.toNat

/-- The state with another value in the register file's unread cell of index 0 (log entry 4). -/
def withZeroCell (s : State) (v : Word) : State := s.setRegs (s.regs.set 0 v)

end Sys2Proof.Claims

open Sys2Proof Sys2Proof.Machine Sys2Proof.Claims

/-! ## Registers -/

/-- R21, R22: x0 reads 0 in every state, a write of x0 leaves the state exactly as it was, and a write of any other
register replaces all 32 bits of it and leaves everything else. -/
def Obligations.ZeroRegisterIsHardwired : Prop :=
  (∀ s, readReg s 0 = 0#32) ∧ (∀ s v, writeReg s 0 v = s) ∧
  ∀ s i v, i ≠ 0 → WritesReg s (writeReg s i v) i v s.pc

/-! ## Encoding -/

/-- R71, R78, R79, R81: where the fields of a word sit. -/
def Obligations.FieldsSitAtTheirBits : Prop :=
  ∀ w : Word,
    (opcode w).toNat = w.toNat % 2 ^ 7 ∧ (rdField w).val = w.toNat / 2 ^ 7 % 2 ^ 5 ∧
    (funct3 w).toNat = w.toNat / 2 ^ 12 % 2 ^ 3 ∧ (rs1Field w).val = w.toNat / 2 ^ 15 % 2 ^ 5 ∧
    (rs2Field w).val = w.toNat / 2 ^ 20 % 2 ^ 5 ∧ (funct7 w).toNat = w.toNat / 2 ^ 25 ∧
    (shamtField w).toNat = w.toNat / 2 ^ 20 % 2 ^ 5 ∧ (fmField w).toNat = w.toNat / 2 ^ 28 ∧
    (predField w).toNat = w.toNat / 2 ^ 24 % 2 ^ 4 ∧ (succField w).toNat = w.toNat / 2 ^ 20 % 2 ^ 4

/-- R80: the immediates as numbers. A 12-, 13- or 21-bit field is read in two's complement; imm_U fills the word. -/
def Obligations.ImmediatesAreAssembled : Prop :=
  ∀ w : Word,
    (immI w).toInt = Int.bmod (w.toNat / 2 ^ 20) (2 ^ 12) ∧
    (immS w).toInt = Int.bmod (w.toNat / 2 ^ 25 * 2 ^ 5 + w.toNat / 2 ^ 7 % 2 ^ 5) (2 ^ 12) ∧
    (immB w).toInt = Int.bmod (w.toNat / 2 ^ 31 * 2 ^ 12 + w.toNat / 2 ^ 7 % 2 * 2 ^ 11 +
      w.toNat / 2 ^ 25 % 2 ^ 6 * 2 ^ 5 + w.toNat / 2 ^ 8 % 2 ^ 4 * 2) (2 ^ 13) ∧
    (immU w).toNat = w.toNat / 2 ^ 12 * 2 ^ 12 ∧
    (immJ w).toInt = Int.bmod (w.toNat / 2 ^ 31 * 2 ^ 20 + w.toNat / 2 ^ 12 % 2 ^ 8 * 2 ^ 12 +
      w.toNat / 2 ^ 20 % 2 * 2 ^ 11 + w.toNat / 2 ^ 21 % 2 ^ 10 * 2) (2 ^ 21)

/-- R72 to R80: decoding the word of a well-formed instruction gives the instruction back, whatever its operands. -/
def Obligations.DecodeInvertsEncode : Prop :=
  ∀ i : Instr, i.wellFormed = true → decode (encode i) = .ok i

/-- The other direction: a word that decodes is the word of its instruction, but that FENCE's ignored rs1 and rd fields
(R88) are read back as 0 (log entry 8, the model's choice). -/
def Obligations.EncodeInvertsDecode : Prop :=
  ∀ (w : Word) (i : Instr), decode w = .ok i →
    encode i = if opcode w = 0b0001111#7 then w &&& 0xFFF0707F#32 else w

/-- R80: every decoded instruction has an immediate in the range of its format. -/
def Obligations.DecodedInstructionsAreWellFormed : Prop :=
  ∀ (w : Word) (i : Instr), decode w = .ok i → i.wellFormed = true

/-- R84, R85, R86: the decoder is the loop over the table's masks and matches, and no word matches two rows. -/
def Obligations.DecoderIsMaskAndMatch : Prop :=
  (∀ w : Word, decode w =
    match tableRows.find? (fun p => p.1.holds w) with
    | some p => .ok (p.2 w)
    | none => .error .unsupported) ∧
  ∀ w : Word, tableRows.Pairwise (fun p q => ¬ (p.1.holds w = true ∧ q.1.holds w = true))

/-- R87: the words that are unsupported, and what a step that fetches one does. -/
def Obligations.UnsupportedWordsFault : Prop :=
  (∀ w : Word, (∀ p ∈ tableRows, p.1.holds w = false) → decode w = .error .unsupported) ∧
  (∀ w : Word,
    (w.extractLsb' 0 2 ≠ 0b11#2 → decode w = .error .unsupported) ∧
    (opcode w ∉ [0x03#7, 0x0F#7, 0x13#7, 0x17#7, 0x23#7, 0x33#7, 0x37#7, 0x63#7, 0x67#7, 0x6F#7] →
      decode w = .error .unsupported) ∧
    (opcode w = 0x0F#7 → funct3 w ≠ 0#3 → decode w = .error .unsupported) ∧
    (opcode w = 0x67#7 → funct3 w ≠ 0#3 → decode w = .error .unsupported) ∧
    (opcode w = 0x63#7 → funct3 w ∈ [2#3, 3#3] → decode w = .error .unsupported) ∧
    (opcode w = 0x03#7 → funct3 w ∈ [3#3, 6#3, 7#3] → decode w = .error .unsupported) ∧
    (opcode w = 0x23#7 → funct3 w ∈ [3#3, 4#3, 5#3, 6#3, 7#3] → decode w = .error .unsupported) ∧
    (opcode w = 0x13#7 → funct3 w = 1#3 → funct7 w ≠ 0#7 → decode w = .error .unsupported) ∧
    (opcode w = 0x13#7 → funct3 w = 5#3 → funct7 w ∉ [0x00#7, 0x20#7] → decode w = .error .unsupported) ∧
    (opcode w = 0x33#7 → funct7 w ∉ [0x00#7, 0x20#7] → decode w = .error .unsupported) ∧
    (opcode w = 0x33#7 → funct7 w = 0x20#7 → funct3 w ∉ [0#3, 5#3] → decode w = .error .unsupported)) ∧
  ∀ (s : State) (w : Word), Fetches s w → decode w = .error .unsupported →
    ∃ t, step s = .next t ∧ EntersFault s t .illegalInstruction

/-- Words written out from the formats of the spec, one or more of each format. -/
def Obligations.WrittenWordsDecode : Prop :=
  decode 0x002081B3#32 = .ok (.add 3 1 2) ∧ decode 0x402081B3#32 = .ok (.sub 3 1 2) ∧
  decode 0xFFF08293#32 = .ok (.addi 5 1 (-1)) ∧ decode 0x4040D293#32 = .ok (.srai 5 1 4#5) ∧
  decode 0x123452B7#32 = .ok (.lui 5 0x12345000#32) ∧ decode 0xFFC0A283#32 = .ok (.lw 5 1 (-4)) ∧
  decode 0xFE20AE23#32 = .ok (.sw 1 2 (-4)) ∧ decode 0xFE2098E3#32 = .ok (.bne 1 2 (-16)) ∧
  decode 0xFF9FF06F#32 = .ok (.jal 0 (-8)) ∧ decode 0x8330000F#32 = .ok (.fence 8#4 3#4 3#4) ∧
  decode 0x00000073#32 = .error .unsupported

/-! ## Register-register and register-immediate arithmetic -/

/-- R121, R122: ADD and SUB, for every register triple and every state; the sum and difference wrap modulo 2^32. -/
def Obligations.AddAndSubWrap : Prop :=
  EncodedAs 0x00000033#32 0xFE00707F#32 (fun w => .add (rdField w) (rs1Field w) (rs2Field w)) ∧
  EncodedAs 0x40000033#32 0xFE00707F#32 (fun w => .sub (rdField w) (rs1Field w) (rs2Field w)) ∧
  ∀ (rd rs1 rs2 : RegIdx) (s : State),
    (∃ t, exec (.add rd rs1 rs2) s = .next t ∧ WritesReg s t rd (BitVec.ofNat 32 ((readReg s rs1).toNat + (readReg s rs2).toNat)) (s.pc + 4#32)) ∧
    (∃ t, exec (.sub rd rs1 rs2) s = .next t ∧ WritesReg s t rd (BitVec.ofInt 32 (((readReg s rs1).toNat : Int) - (readReg s rs2).toNat)) (s.pc + 4#32))

/-- R126, R129, R130: XOR, OR and AND. -/
def Obligations.LogicOfRegisters : Prop :=
  EncodedAs 0x00004033#32 0xFE00707F#32 (fun w => .xor (rdField w) (rs1Field w) (rs2Field w)) ∧
  EncodedAs 0x00006033#32 0xFE00707F#32 (fun w => .or (rdField w) (rs1Field w) (rs2Field w)) ∧
  EncodedAs 0x00007033#32 0xFE00707F#32 (fun w => .and (rdField w) (rs1Field w) (rs2Field w)) ∧
  ∀ (rd rs1 rs2 : RegIdx) (s : State),
    (∃ t, exec (.xor rd rs1 rs2) s = .next t ∧ WritesReg s t rd (readReg s rs1 ^^^ readReg s rs2) (s.pc + 4#32)) ∧
    (∃ t, exec (.or rd rs1 rs2) s = .next t ∧ WritesReg s t rd (readReg s rs1 ||| readReg s rs2) (s.pc + 4#32)) ∧
    (∃ t, exec (.and rd rs1 rs2) s = .next t ∧ WritesReg s t rd (readReg s rs1 &&& readReg s rs2) (s.pc + 4#32))

/-- R123, R127, R128: SLL, SRL and SRA shift by x[rs2] modulo 32, as multiplication and as division rounded down of the unsigned and of the signed value. -/
def Obligations.ShiftsOfRegisters : Prop :=
  EncodedAs 0x00001033#32 0xFE00707F#32 (fun w => .sll (rdField w) (rs1Field w) (rs2Field w)) ∧
  EncodedAs 0x00005033#32 0xFE00707F#32 (fun w => .srl (rdField w) (rs1Field w) (rs2Field w)) ∧
  EncodedAs 0x40005033#32 0xFE00707F#32 (fun w => .sra (rdField w) (rs1Field w) (rs2Field w)) ∧
  ∀ (rd rs1 rs2 : RegIdx) (s : State),
    (∃ t, exec (.sll rd rs1 rs2) s = .next t ∧ WritesReg s t rd (BitVec.ofNat 32 ((readReg s rs1).toNat * 2 ^ ((readReg s rs2).toNat % 32))) (s.pc + 4#32)) ∧
    (∃ t, exec (.srl rd rs1 rs2) s = .next t ∧ WritesReg s t rd (BitVec.ofNat 32 ((readReg s rs1).toNat / 2 ^ ((readReg s rs2).toNat % 32))) (s.pc + 4#32)) ∧
    (∃ t, exec (.sra rd rs1 rs2) s = .next t ∧ WritesReg s t rd (BitVec.ofInt 32 ((readReg s rs1).toInt / 2 ^ ((readReg s rs2).toNat % 32))) (s.pc + 4#32))

/-- R124, R125: SLT compares signed, SLTU unsigned. -/
def Obligations.ComparesOfRegisters : Prop :=
  EncodedAs 0x00002033#32 0xFE00707F#32 (fun w => .slt (rdField w) (rs1Field w) (rs2Field w)) ∧
  EncodedAs 0x00003033#32 0xFE00707F#32 (fun w => .sltu (rdField w) (rs1Field w) (rs2Field w)) ∧
  ∀ (rd rs1 rs2 : RegIdx) (s : State),
    (∃ t, exec (.slt rd rs1 rs2) s = .next t ∧ WritesReg s t rd (boolWord ((readReg s rs1).toInt < (readReg s rs2).toInt)) (s.pc + 4#32)) ∧
    (∃ t, exec (.sltu rd rs1 rs2) s = .next t ∧ WritesReg s t rd (boolWord ((readReg s rs1).toNat < (readReg s rs2).toNat)) (s.pc + 4#32))

/-- R141, R144, R145, R146: ADDI, XORI, ORI and ANDI; imm is the sign-extended immediate. -/
def Obligations.AddAndLogicImmediate : Prop :=
  EncodedAs 0x00000013#32 0x0000707F#32 (fun w => .addi (rdField w) (rs1Field w) (immI w)) ∧
  EncodedAs 0x00004013#32 0x0000707F#32 (fun w => .xori (rdField w) (rs1Field w) (immI w)) ∧
  EncodedAs 0x00006013#32 0x0000707F#32 (fun w => .ori (rdField w) (rs1Field w) (immI w)) ∧
  EncodedAs 0x00007013#32 0x0000707F#32 (fun w => .andi (rdField w) (rs1Field w) (immI w)) ∧
  ∀ (rd rs1 : RegIdx) (imm : Word) (s : State),
    (∃ t, exec (.addi rd rs1 imm) s = .next t ∧ WritesReg s t rd (BitVec.ofNat 32 ((readReg s rs1).toNat + imm.toNat)) (s.pc + 4#32)) ∧
    (∃ t, exec (.xori rd rs1 imm) s = .next t ∧ WritesReg s t rd (readReg s rs1 ^^^ imm) (s.pc + 4#32)) ∧
    (∃ t, exec (.ori rd rs1 imm) s = .next t ∧ WritesReg s t rd (readReg s rs1 ||| imm) (s.pc + 4#32)) ∧
    (∃ t, exec (.andi rd rs1 imm) s = .next t ∧ WritesReg s t rd (readReg s rs1 &&& imm) (s.pc + 4#32))

/-- R142, R143: SLTI compares signed, SLTIU unsigned, with the sign-extended immediate. -/
def Obligations.ComparesWithImmediate : Prop :=
  EncodedAs 0x00002013#32 0x0000707F#32 (fun w => .slti (rdField w) (rs1Field w) (immI w)) ∧
  EncodedAs 0x00003013#32 0x0000707F#32 (fun w => .sltiu (rdField w) (rs1Field w) (immI w)) ∧
  ∀ (rd rs1 : RegIdx) (imm : Word) (s : State),
    (∃ t, exec (.slti rd rs1 imm) s = .next t ∧ WritesReg s t rd (boolWord ((readReg s rs1).toInt < imm.toInt)) (s.pc + 4#32)) ∧
    (∃ t, exec (.sltiu rd rs1 imm) s = .next t ∧ WritesReg s t rd (boolWord ((readReg s rs1).toNat < imm.toNat)) (s.pc + 4#32))

/-- R147, R148, R149: SLLI, SRLI and SRAI; a word with another inst[31:25] is unsupported. -/
def Obligations.ShiftsByImmediate : Prop :=
  EncodedAs 0x00001013#32 0xFE00707F#32 (fun w => .slli (rdField w) (rs1Field w) (shamtField w)) ∧
  EncodedAs 0x00005013#32 0xFE00707F#32 (fun w => .srli (rdField w) (rs1Field w) (shamtField w)) ∧
  EncodedAs 0x40005013#32 0xFE00707F#32 (fun w => .srai (rdField w) (rs1Field w) (shamtField w)) ∧
  (∀ w : Word, opcode w = 0x13#7 → funct3 w = 1#3 → funct7 w ≠ 0x00#7 → decode w = .error .unsupported) ∧
  (∀ w : Word, opcode w = 0x13#7 → funct3 w = 5#3 → funct7 w ≠ 0x00#7 → funct7 w ≠ 0x20#7 →
    decode w = .error .unsupported) ∧
  ∀ (rd rs1 : RegIdx) (shamt : BitVec 5) (s : State),
    (∃ t, exec (.slli rd rs1 shamt) s = .next t ∧ WritesReg s t rd (BitVec.ofNat 32 ((readReg s rs1).toNat * 2 ^ shamt.toNat)) (s.pc + 4#32)) ∧
    (∃ t, exec (.srli rd rs1 shamt) s = .next t ∧ WritesReg s t rd (BitVec.ofNat 32 ((readReg s rs1).toNat / 2 ^ shamt.toNat)) (s.pc + 4#32)) ∧
    (∃ t, exec (.srai rd rs1 shamt) s = .next t ∧ WritesReg s t rd (BitVec.ofInt 32 ((readReg s rs1).toInt / 2 ^ shamt.toNat)) (s.pc + 4#32))

/-- R150, R151: AUIPC adds imm_U to the pc of the AUIPC itself, LUI gives imm_U. -/
def Obligations.UpperImmediates : Prop :=
  EncodedAs 0x00000017#32 0x0000007F#32 (fun w => .auipc (rdField w) (immU w)) ∧
  EncodedAs 0x00000037#32 0x0000007F#32 (fun w => .lui (rdField w) (immU w)) ∧
  ∀ (rd : RegIdx) (imm : Word) (s : State),
    (∃ t, exec (.auipc rd imm) s = .next t ∧ WritesReg s t rd (BitVec.ofNat 32 (s.pc.toNat + imm.toNat)) (s.pc + 4#32)) ∧
    (∃ t, exec (.lui rd imm) s = .next t ∧ WritesReg s t rd (imm) (s.pc + 4#32))

/-! ## Loads and stores -/

/-- R160: the effective address is the 32-bit sum of the base register and the immediate, modulo 2^32. -/
def Obligations.EffectiveAddressWraps : Prop :=
  ∀ (s : State) (rs1 : RegIdx) (imm : Word), ea s rs1 imm = ((readReg s rs1).toNat + imm.toNat) % 2 ^ 32

/-- R162 to R166, R170: what each load gives rd, at any alignment; out of bounds it faults, rd = x0 or not, and nothing but run changes. -/
def Obligations.LoadsReadBytes : Prop :=
  EncodedAs 0x00000003#32 0x0000707F#32 (fun w => .lb (rdField w) (rs1Field w) (immI w)) ∧
  EncodedAs 0x00001003#32 0x0000707F#32 (fun w => .lh (rdField w) (rs1Field w) (immI w)) ∧
  EncodedAs 0x00002003#32 0x0000707F#32 (fun w => .lw (rdField w) (rs1Field w) (immI w)) ∧
  EncodedAs 0x00004003#32 0x0000707F#32 (fun w => .lbu (rdField w) (rs1Field w) (immI w)) ∧
  EncodedAs 0x00005003#32 0x0000707F#32 (fun w => .lhu (rdField w) (rs1Field w) (immI w)) ∧
  ∀ (rd rs1 : RegIdx) (imm : Word) (s : State),
    LoadsValue (.lb rd rs1 imm) s 1 rd rs1 imm (BitVec.ofInt 32 (Int.bmod (bytesValue s.mem (ea s rs1 imm) 1) (2 ^ 8))) ∧
    LoadsValue (.lh rd rs1 imm) s 2 rd rs1 imm (BitVec.ofInt 32 (Int.bmod (bytesValue s.mem (ea s rs1 imm) 2) (2 ^ 16))) ∧
    LoadsValue (.lw rd rs1 imm) s 4 rd rs1 imm (BitVec.ofNat 32 (bytesValue s.mem (ea s rs1 imm) 4)) ∧
    LoadsValue (.lbu rd rs1 imm) s 1 rd rs1 imm (BitVec.ofNat 32 (bytesValue s.mem (ea s rs1 imm) 1)) ∧
    LoadsValue (.lhu rd rs1 imm) s 2 rd rs1 imm (BitVec.ofNat 32 (bytesValue s.mem (ea s rs1 imm) 2))

/-- R167, R168, R169: what each store writes, at any alignment, in a memory in canonical form (StepKeepsInvariant says that it stays so); out of bounds it faults and writes no byte. -/
def Obligations.StoresWriteBytes : Prop :=
  EncodedAs 0x00000023#32 0x0000707F#32 (fun w => .sb (rs1Field w) (rs2Field w) (immS w)) ∧
  EncodedAs 0x00001023#32 0x0000707F#32 (fun w => .sh (rs1Field w) (rs2Field w) (immS w)) ∧
  EncodedAs 0x00002023#32 0x0000707F#32 (fun w => .sw (rs1Field w) (rs2Field w) (immS w)) ∧
  ∀ (rs1 rs2 : RegIdx) (imm : Word) (s : State), s.mem.wf →
    StoresValue (.sb rs1 rs2 imm) s 1 rs1 rs2 imm ∧
    StoresValue (.sh rs1 rs2 imm) s 2 rs1 rs2 imm ∧
    StoresValue (.sw rs1 rs2 imm) s 4 rs1 rs2 imm

/-! ## Control transfer and FENCE -/

/-- R181: JAL. The target is checked before anything commits; rd gets pc + 4. -/
def Obligations.JalLinksAndJumps : Prop :=
  EncodedAs 0x0000006F#32 0x0000007F#32 (fun w => .jal (rdField w) (immJ w)) ∧
  (∀ (rd : RegIdx) (imm : Word) (s : State),
    (aligned (s.pc + imm) → ∃ t, exec (.jal rd imm) s = .next t ∧ WritesReg s t rd (s.pc + 4#32) (s.pc + imm)) ∧
    (¬ aligned (s.pc + imm) → ∃ t, exec (.jal rd imm) s = .next t ∧ EntersFault s t .misalignedAccess)) ∧
  ∀ (imm : Word) (s : State), aligned s.pc → imm.toNat % 2 = 0 → (¬ aligned (s.pc + imm) ↔ imm.toNat % 4 = 2)

/-- R182: JALR. Bit 0 of the sum is cleared; the target comes from the old x[rs1], also when rd = rs1. -/
def Obligations.JalrLinksAndJumps : Prop :=
  EncodedAs 0x00000067#32 0x0000707F#32 (fun w => .jalr (rdField w) (rs1Field w) (immI w)) ∧
  ∀ (rd rs1 : RegIdx) (imm : Word) (s : State),
    let target := BitVec.ofNat 32 (((readReg s rs1).toNat + imm.toNat) % 2 ^ 32 / 2 * 2)
    (target.getLsbD 1 = false →
      ∃ t, exec (.jalr rd rs1 imm) s = .next t ∧ WritesReg s t rd (s.pc + 4#32) target) ∧
    (target.getLsbD 1 = true →
      ∃ t, exec (.jalr rd rs1 imm) s = .next t ∧ EntersFault s t .misalignedAccess)

/-- R183 to R189: the six branches. The target is checked only when the branch is taken; no register is written. -/
def Obligations.BranchesCompareAndJump : Prop :=
  EncodedAs 0x00000063#32 0x0000707F#32 (fun w => .beq (rs1Field w) (rs2Field w) (immB w)) ∧
  EncodedAs 0x00001063#32 0x0000707F#32 (fun w => .bne (rs1Field w) (rs2Field w) (immB w)) ∧
  EncodedAs 0x00004063#32 0x0000707F#32 (fun w => .blt (rs1Field w) (rs2Field w) (immB w)) ∧
  EncodedAs 0x00005063#32 0x0000707F#32 (fun w => .bge (rs1Field w) (rs2Field w) (immB w)) ∧
  EncodedAs 0x00006063#32 0x0000707F#32 (fun w => .bltu (rs1Field w) (rs2Field w) (immB w)) ∧
  EncodedAs 0x00007063#32 0x0000707F#32 (fun w => .bgeu (rs1Field w) (rs2Field w) (immB w)) ∧
  ∀ (rs1 rs2 : RegIdx) (imm : Word) (s : State),
    BranchesOn (.beq rs1 rs2 imm) s imm (readReg s rs1 = readReg s rs2) ∧
    BranchesOn (.bne rs1 rs2 imm) s imm (readReg s rs1 ≠ readReg s rs2) ∧
    BranchesOn (.blt rs1 rs2 imm) s imm ((readReg s rs1).toInt < (readReg s rs2).toInt) ∧
    BranchesOn (.bge rs1 rs2 imm) s imm ((readReg s rs2).toInt ≤ (readReg s rs1).toInt) ∧
    BranchesOn (.bltu rs1 rs2 imm) s imm ((readReg s rs1).toNat < (readReg s rs2).toNat) ∧
    BranchesOn (.bgeu rs1 rs2 imm) s imm ((readReg s rs2).toNat ≤ (readReg s rs1).toNat)

/-- R200, R88: every FENCE word, whatever its fm, pred, succ, rs1 and rd, only advances the pc. -/
def Obligations.FenceOnlyAdvances : Prop :=
  EncodedAs 0x0000000F#32 0x0000707F#32 (fun w => .fence (fmField w) (predField w) (succField w)) ∧
  ∀ (fm pred succ : BitVec 4) (s : State),
    ∃ t, exec (.fence fm pred succ) s = .next t ∧ ChangesPcOnly s t (s.pc + 4#32)

/-! ## The memory primitives -/

/-- R44: MemRead is exact about its bounds and little-endian. -/
def Obligations.MemReadIsExact : Prop :=
  ∀ (m : Memory) (addr : Word) (n : Width),
    (addr.toNat + n.bytes ≤ m.size →
      ∃ v, memRead m addr n = .ok v ∧ v.toNat = bytesValue m addr.toNat n.bytes) ∧
    (m.size < addr.toNat + n.bytes → memRead m addr n = .error .outOfBounds)

/-- R45, R48: MemWrite, which is also the host's store, writes the low n bytes little-endian, no other byte, and nothing
when it fails. -/
def Obligations.MemWriteIsExact : Prop :=
  ∀ (m : Memory) (addr : Word) (n : Width) (v : Word), m.wf →
    (addr.toNat + n.bytes ≤ m.size →
      ∃ m', memWrite m addr n v = .ok m' ∧ m'.size = m.size ∧
        (∀ i, i < n.bytes → m'.byteAt (addr.toNat + i) = v.extractLsb' (8 * i) 8) ∧
        ∀ b, b < addr.toNat ∨ addr.toNat + n.bytes ≤ b → m'.byteAt b = m.byteAt b) ∧
    (m.size < addr.toNat + n.bytes → memWrite m addr n v = .error .outOfBounds) ∧
    hostStore m addr v n = memWrite m addr n v

/-- R47: the host's load is MemRead, sign- or zero-extended as the caller asks; for width 4 the two agree. -/
def Obligations.HostLoadExtends : Prop :=
  ∀ (m : Memory) (addr : Word) (n : Width),
    (addr.toNat + n.bytes ≤ m.size →
      hostLoad m addr n .unsigned = .ok (BitVec.ofNat 32 (bytesValue m addr.toNat n.bytes)) ∧
      hostLoad m addr n .signed =
        .ok (BitVec.ofInt 32 (Int.bmod (bytesValue m addr.toNat n.bytes) (2 ^ (8 * n.bytes))))) ∧
    (∀ x, m.size < addr.toNat + n.bytes → hostLoad m addr n x = .error .outOfBounds) ∧
    hostLoad m addr .word .signed = hostLoad m addr .word .unsigned

/-- R49: the host's store then load of the same address and width gives the value back as far as the width
holds it, sign- or zero-extended as the load asks. -/
def Obligations.StoreThenLoadReturnsValue : Prop :=
  ∀ (m m' : Memory) (addr v : Word) (n : Width), m.wf → hostStore m addr v n = .ok m' →
    hostLoad m' addr n .unsigned = .ok (BitVec.ofNat 32 (v.toNat % 2 ^ (8 * n.bytes))) ∧
    hostLoad m' addr n .signed = .ok (BitVec.ofInt 32 (Int.bmod v.toNat (2 ^ (8 * n.bytes))))

/-- R41: what Memory.new gives for every size. A size above 2^32 is the model's own refusal (log entry 6) and is not
stated. -/
def Obligations.NewMemoryIsZeroed : Prop :=
  newMemory 0 = .error .invalidSize ∧
  ∀ size, 1 ≤ size → size ≤ 2 ^ 32 →
    ∃ m, newMemory size = .ok m ∧ m.size = size ∧ ∀ a, m.byteAt a = 0#8

/-- R61, R253: a word stored over the next instruction is the word the next step fetches. -/
def Obligations.FetchSeesTheStore : Prop :=
  ∀ (rs1 rs2 : RegIdx) (imm : Word) (s : State), s.mem.wf → aligned s.pc →
    effectiveAddress s rs1 imm = s.pc + 4#32 → ea s rs1 imm + 4 ≤ s.mem.size →
    ∃ t, exec (.sw rs1 rs2 imm) s = .next t ∧ fetch t = .ok (readReg s rs2)

/-! ## The step -/

/-- R102, R103, R104: when the bytes at pc decode to an instruction, the step is the execution of that instruction on the
same state; the step adds nothing around it. -/
def Obligations.StepRunsDecodedInstruction : Prop :=
  ∀ (s : State) (w : Word) (i : Instr), Fetches s w → decode w = .ok i → step s = exec i s

/-- R102, R103, R218: which fault a step reports, in order: already faulted, fetch alignment, fetch bounds, decode, and
then what executing the instruction gives. -/
def Obligations.FaultsComeInOrder : Prop :=
  (∀ s k, s.run = .faulted k → step s = .fault k) ∧
  (∀ s, s.run = .running → ¬ aligned s.pc → ∃ t, step s = .next t ∧ EntersFault s t .misalignedAccess) ∧
  (∀ s, s.run = .running → aligned s.pc → s.mem.size < s.pc.toNat + 4 →
    ∃ t, step s = .next t ∧ EntersFault s t .outOfBounds) ∧
  (∀ s w r, Fetches s w → decode w = .error r → ∃ t, step s = .next t ∧ EntersFault s t .illegalInstruction) ∧
  ∀ s w i, Fetches s w → decode w = .ok i → step s = exec i s

/-- R213, R214, R215: where each fault arises, and that it arises nowhere else. -/
def Obligations.FaultsAriseOnlyThere : Prop :=
  ∀ s t : State, s.run = .running → step s = .next t →
    (t.run = .faulted .outOfBounds ↔
      aligned s.pc ∧ s.mem.size < s.pc.toNat + 4 ∨
      ∃ w i n rs1 imm, Fetches s w ∧ decode w = .ok i ∧ dataAccess i = some (n, rs1, imm) ∧
        s.mem.size < ea s rs1 imm + n) ∧
    (t.run = .faulted .illegalInstruction ↔ ∃ w, Fetches s w ∧ decode w = .error .unsupported) ∧
    (t.run = .faulted .misalignedAccess ↔
      ¬ aligned s.pc ∨
      ∃ w i a, Fetches s w ∧ decode w = .ok i ∧ transferTarget s i = some a ∧ ¬ aligned a)

/-- R101, R222: a faulted Cpu changes nothing and reports the same fault at every later step. -/
def Obligations.FaultedCpuReportsAgain : Prop :=
  ∀ (s : State) (k : Fault), s.run = .faulted k →
    cpuStep s = some (s, .fault k) ∧ (∀ n, Sys2Proof.core.run (n + 1) s = .fault k) ∧
    ∀ n, performAll (List.replicate n .step) s = s

/-- R212, R217: a step that faults changes only the run state, which becomes faulted(k), and returns Fault(k). -/
def Obligations.FaultEntryChangesOnlyRun : Prop :=
  ∀ (s t : State) (k : Fault), s.run = .running → step s = .next t → t.run = .faulted k →
    EntersFault s t k ∧ cpuStep s = some (t, .fault k)

/-- R100: every step returns, having executed exactly one instruction or reporting exactly one fault; nothing is ever
refused. -/
def Obligations.EveryStepReturns : Prop :=
  (∀ s, s.run = .running → ∃ t, step s = .next t) ∧ (∀ s r, step s ≠ .refused r) ∧
  ∀ s, ∃ t r, cpuStep s = some (t, r) ∧
    ((∃ k, r = .fault k) ∨ (r = .ok ∧ ∃ w i, Fetches s w ∧ decode w = .ok i ∧ exec i s = .next t))

/-- R108: a step that commits returns Ok; a step that returns Ok executed exactly the one instruction that it fetched, and
leaves the Cpu running. -/
def Obligations.OkStepRetiresOneInstruction : Prop :=
  (∀ s t, s.run = .running → step s = .next t → t.run = .running → cpuStep s = some (t, .ok)) ∧
  ∀ s t, cpuStep s = some (t, .ok) →
    t.run = .running ∧ ∃ w i, Fetches s w ∧ decode w = .ok i ∧ exec i s = .next t

/-- R105: an instruction that is no control transfer goes on at pc + 4; a control transfer that commits leaves the pc at
pc + 4 or at a multiple of 4. -/
def Obligations.PcAdvancesByFour : Prop :=
  ∀ (i : Instr) (s t : State), s.run = .running → exec i s = .next t → t.run = .running →
    (isTransfer i = false → t.pc = s.pc + 4#32) ∧
    (isTransfer i = true → t.pc = s.pc + 4#32 ∨ t.pc.toNat % 4 = 0)

/-- R104, R107: no instruction but a store changes memory, and none changes a register other than its destination. -/
def Obligations.InstructionsStayInTheirFrame : Prop :=
  ∀ (i : Instr) (s t : State), exec i s = .next t →
    (isStore i = false → SameMemory s t) ∧ (∀ r, destination i ≠ some r → readReg t r = readReg s r)

/-- R107: a step leaves every byte of memory as it was unless it commits a store of the instruction it fetched, and then
every byte outside the n bytes at that store's address. -/
def Obligations.StepChangesOnlyStoredBytes : Prop :=
  ∀ s t : State, s.mem.wf → step s = .next t →
    SameMemory s t ∨
    ∃ w i rs1 rs2 imm n, Fetches s w ∧ decode w = .ok i ∧
      (i = .sb rs1 rs2 imm ∧ n = 1 ∨ i = .sh rs1 rs2 imm ∧ n = 2 ∨ i = .sw rs1 rs2 imm ∧ n = 4) ∧
      StoresBytes s t (ea s rs1 imm) n (readReg s rs2)

/-! ## Invariants -/

/-- R21, R26, R32, R41: every step keeps the memory in its canonical form, the pc a multiple of 4, and the cell of x0
at 0, from every state that has them. -/
def Obligations.StepKeepsInvariant : Prop :=
  ∀ s t : State, s.Inv → step s = .next t → t.Inv

/-- The reset state has the invariant. -/
def Obligations.ResetHasInvariant : Prop := State.reset.Inv

/-- R26, R51: whatever the host does, in any order, in any memory of a legal size, the state stays legal, the pc a multiple of
4, and no fetch is misaligned. -/
def Obligations.EveryRunStaysLegal : Prop :=
  ∀ (size : Nat) (m : Memory) (actions : List HostAction), newMemory size = .ok m →
    (performAll actions (newCpu m)).Inv ∧
    fetch (performAll actions (newCpu m)) ≠ .error .misalignedAccess

/-- R42: the memory never changes its size, by a step or by any host action, and only stores change its bytes. -/
def Obligations.MemorySizeIsFixed : Prop :=
  (∀ s t : State, step s = .next t → t.mem.size = s.mem.size) ∧
  (∀ (actions : List HostAction) (s : State), (performAll actions s).mem.size = s.mem.size) ∧
  (∀ (i : Instr) (s t : State), isStore i = false → exec i s = .next t → t.mem = s.mem) ∧
  ∀ (a : HostAction) (s : State), (∀ addr v n, a ≠ .store addr v n) → a ≠ .step → (perform a s).1.mem = s.mem

/-- R21, R36: the register file's cell of index 0 has no influence: a step from a state with another value in it gives the
same outcome, with that value kept in that cell. -/
def Obligations.ZeroCellHasNoInfluence : Prop :=
  ∀ (s : State) (v : Word),
    match step s with
    | .next t => step (withZeroCell s v) = .next (withZeroCell t v)
    | .fault k => step (withZeroCell s v) = .fault k
    | .refused r => step (withZeroCell s v) = .refused r

/-- R251: the end of a run is unique; before it every step is Ok, after it the Cpu is faulted with that kind. -/
def Obligations.RunsEndOnce : Prop :=
  ∀ (s : State) (n : Nat) (k : Fault) (t : State), EndsIn s n k t →
    (∀ j, SafeFor s j ↔ j ≤ n) ∧ t.run = .faulted k ∧
    ∀ (n' : Nat) (k' : Fault) (t' : State), EndsIn s n' k' t' → n' = n ∧ k' = k ∧ t' = t

/-! ## Reset and the host -/

/-- R240, R241, R242, R63: Cpu.new and Cpu.reset. -/
def Obligations.ResetClearsTheCpu : Prop :=
  ∀ s : State,
    (∀ r, readReg (cpuReset s) r = 0#32) ∧ (cpuReset s).pc = 0#32 ∧ (cpuReset s).run = .running ∧
    (cpuReset s).mem = s.mem ∧ cpuReset (cpuReset s) = cpuReset s ∧
    ∀ m, (∀ r, readReg (newCpu m) r = 0#32) ∧ (newCpu m).pc = 0#32 ∧ (newCpu m).run = .running ∧ (newCpu m).mem = m ∧
      cpuReset (newCpu m) = newCpu m

/-- R35, R243: the state after Memory.new and Cpu.new. That its size is 2^32 is the model's choice (log entry 1) and is
not stated here. -/
def Obligations.ResetStateIsAllZero : Prop :=
  (∀ r, readReg State.reset r = 0#32) ∧ State.reset.pc = 0#32 ∧ State.reset.run = .running ∧
  ∀ a, State.reset.mem.byteAt a = 0#8

/-- R248, R249: the test hook writes one register, discarded for x0; the host's reads change nothing and answer the value
(a load out of bounds: the error) that they read; store, reset and step are `hostStore`, `cpuReset` and `cpuStep`; of the
host's actions only reset and step write the pc. -/
def Obligations.HostReadsAndHook : Prop :=
  (∀ s i v, WritesReg s (setRegister s i v) i v s.pc) ∧
  (∀ s i, perform (.register i) s = (s, .value (readReg s i))) ∧ (∀ s, perform .pc s = (s, .value s.pc)) ∧
  (∀ s addr n x, (perform (.load addr n x) s).1 = s) ∧
  (∀ s addr n x v, hostLoad s.mem addr n x = .ok v → perform (.load addr n x) s = (s, .value v)) ∧
  (∀ s addr n x k, hostLoad s.mem addr n x = .error k → perform (.load addr n x) s = (s, .error k)) ∧
  (∀ s addr v n m, hostStore s.mem addr v n = .ok m → perform (.store addr v n) s = (⟨s.regs, s.pc, s.run, m⟩, .unit)) ∧
  (∀ s addr v n k, hostStore s.mem addr v n = .error k → perform (.store addr v n) s = (s, .error k)) ∧
  (∀ s, perform .reset s = (cpuReset s, .unit)) ∧
  (∀ s t r, cpuStep s = some (t, r) → perform .step s = (t, .stepped r)) ∧
  (∀ s i v, perform (.setRegister i v) s = (setRegister s i v, .unit)) ∧
  ∀ a s, a ≠ .reset → a ≠ .step → (perform a s).1.pc = s.pc

/-- R48, R246: the loader's store at pc is what the next step fetches. -/
def Obligations.LoadedWordIsFetched : Prop :=
  ∀ (s : State) (nbits w : Nat), s.mem.wf → aligned s.pc → s.pc.toNat + 4 ≤ s.mem.size →
    fetch (s.withFetchWord nbits w) = .ok (BitVec.ofNat 32 (w % 2 ^ nbits))

/-- The memory that Memory.new gives is in canonical form. The canonical form is the model's (log entry 5). -/
def Obligations.NewMemoryIsCanonical : Prop :=
  ∀ size m, newMemory size = .ok m → m.wf ∧ m.size = size
end

