-- ==== Sys2Proof/Laws/Encoding.lean ====
section
/-! SUPPORT. The fields of an encoded word, format by format (R72 to R79), and the immediates read back from one
(R80). -/

namespace Sys2Proof

@[simp] theorem toFin_regBits (r : RegIdx) : (regBits r).toFin = r := rfl

/-! ## R-type and the shift form (R72, R78) -/

section rType
variable (f7 : BitVec 7) (rs2 rs1 : BitVec 5) (f3 : BitVec 3) (rd : BitVec 5) (op : BitVec 7)

@[simp] theorem opcode_rType : opcode (rType f7 rs2 rs1 f3 rd op) = op := by
  ext i hi; simp [opcode, rType]; grind
@[simp] theorem funct3_rType : funct3 (rType f7 rs2 rs1 f3 rd op) = f3 := by
  ext i hi; simp [funct3, rType]; grind
@[simp] theorem funct7_rType : funct7 (rType f7 rs2 rs1 f3 rd op) = f7 := by
  ext i hi; simp [funct7, rType]; grind
@[simp] theorem shamtField_rType : shamtField (rType f7 rs2 rs1 f3 rd op) = rs2 := by
  ext i hi; simp [shamtField, rType]; grind
@[simp] theorem rdField_rType : rdField (rType f7 rs2 rs1 f3 rd op) = rd.toFin :=
  congrArg BitVec.toFin (by ext i hi; simp [rType]; grind : (rType f7 rs2 rs1 f3 rd op).extractLsb' 7 5 = rd)
@[simp] theorem rs1Field_rType : rs1Field (rType f7 rs2 rs1 f3 rd op) = rs1.toFin :=
  congrArg BitVec.toFin (by ext i hi; simp [rType]; grind : (rType f7 rs2 rs1 f3 rd op).extractLsb' 15 5 = rs1)
@[simp] theorem rs2Field_rType : rs2Field (rType f7 rs2 rs1 f3 rd op) = rs2.toFin :=
  congrArg BitVec.toFin (by ext i hi; simp [rType]; grind : (rType f7 rs2 rs1 f3 rd op).extractLsb' 20 5 = rs2)
end rType

/-! ## I-type (R73) -/

section iType
variable (imm : Word) (rs1 : BitVec 5) (f3 : BitVec 3) (rd : BitVec 5) (op : BitVec 7)

@[simp] theorem opcode_iType : opcode (iType imm rs1 f3 rd op) = op := by
  ext i hi; simp [opcode, iType]; grind
@[simp] theorem funct3_iType : funct3 (iType imm rs1 f3 rd op) = f3 := by
  ext i hi; simp [funct3, iType]; grind
@[simp] theorem rdField_iType : rdField (iType imm rs1 f3 rd op) = rd.toFin :=
  congrArg BitVec.toFin (by ext i hi; simp [iType]; grind : (iType imm rs1 f3 rd op).extractLsb' 7 5 = rd)
@[simp] theorem rs1Field_iType : rs1Field (iType imm rs1 f3 rd op) = rs1.toFin :=
  congrArg BitVec.toFin (by ext i hi; simp [iType]; grind : (iType imm rs1 f3 rd op).extractLsb' 15 5 = rs1)
@[simp] theorem immI_iType : immI (iType imm rs1 f3 rd op) = (imm.extractLsb' 0 12).signExtend 32 :=
  congrArg (BitVec.signExtend 32) (by ext i hi; simp [iType]; grind : (iType imm rs1 f3 rd op).extractLsb' 20 12 = imm.extractLsb' 0 12)
end iType

/-! ## S-type (R74) -/

section sType
variable (imm : Word) (rs2 rs1 : BitVec 5) (f3 : BitVec 3) (op : BitVec 7)

@[simp] theorem opcode_sType : opcode (sType imm rs2 rs1 f3 op) = op := by
  ext i hi; simp [opcode, sType]; grind
@[simp] theorem funct3_sType : funct3 (sType imm rs2 rs1 f3 op) = f3 := by
  ext i hi; simp [funct3, sType]; grind
@[simp] theorem rs1Field_sType : rs1Field (sType imm rs2 rs1 f3 op) = rs1.toFin :=
  congrArg BitVec.toFin (by ext i hi; simp [sType]; grind : (sType imm rs2 rs1 f3 op).extractLsb' 15 5 = rs1)
@[simp] theorem rs2Field_sType : rs2Field (sType imm rs2 rs1 f3 op) = rs2.toFin :=
  congrArg BitVec.toFin (by ext i hi; simp [sType]; grind : (sType imm rs2 rs1 f3 op).extractLsb' 20 5 = rs2)
@[simp] theorem immS_sType : immS (sType imm rs2 rs1 f3 op) = (imm.extractLsb' 0 12).signExtend 32 := by
  unfold immS
  congr 1
  ext i hi; simp [sType]; grind
end sType

/-! ## B-type (R75) -/

section bType
variable (imm : Word) (rs2 rs1 : BitVec 5) (f3 : BitVec 3) (op : BitVec 7)

@[simp] theorem opcode_bType : opcode (bType imm rs2 rs1 f3 op) = op := by
  ext i hi; simp [opcode, bType]; grind
@[simp] theorem funct3_bType : funct3 (bType imm rs2 rs1 f3 op) = f3 := by
  ext i hi; simp [funct3, bType]; grind
@[simp] theorem rs1Field_bType : rs1Field (bType imm rs2 rs1 f3 op) = rs1.toFin :=
  congrArg BitVec.toFin (by ext i hi; simp [bType]; grind : (bType imm rs2 rs1 f3 op).extractLsb' 15 5 = rs1)
@[simp] theorem rs2Field_bType : rs2Field (bType imm rs2 rs1 f3 op) = rs2.toFin :=
  congrArg BitVec.toFin (by ext i hi; simp [bType]; grind : (bType imm rs2 rs1 f3 op).extractLsb' 20 5 = rs2)
@[simp] theorem immB_bType : immB (bType imm rs2 rs1 f3 op) = (imm.extractLsb' 1 12 ++ 0#1).signExtend 32 := by
  unfold immB
  congr 1
  ext i hi; simp [bType]; grind
end bType

/-! ## U-type (R76) -/

section uType
variable (imm : Word) (rd : BitVec 5) (op : BitVec 7)

@[simp] theorem opcode_uType : opcode (uType imm rd op) = op := by
  ext i hi; simp [opcode, uType]; grind
@[simp] theorem rdField_uType : rdField (uType imm rd op) = rd.toFin :=
  congrArg BitVec.toFin (by ext i hi; simp [uType]; grind : (uType imm rd op).extractLsb' 7 5 = rd)
@[simp] theorem immU_uType : immU (uType imm rd op) = imm.extractLsb' 12 20 ++ 0#12 := by
  ext i hi; simp [immU, uType]; grind
end uType

/-! ## J-type (R77) -/

section jType
variable (imm : Word) (rd : BitVec 5) (op : BitVec 7)

@[simp] theorem opcode_jType : opcode (jType imm rd op) = op := by
  ext i hi; simp [opcode, jType]; grind
@[simp] theorem rdField_jType : rdField (jType imm rd op) = rd.toFin :=
  congrArg BitVec.toFin (by ext i hi; simp [jType]; grind : (jType imm rd op).extractLsb' 7 5 = rd)
@[simp] theorem immJ_jType : immJ (jType imm rd op) = (imm.extractLsb' 1 20 ++ 0#1).signExtend 32 := by
  unfold immJ
  congr 1
  ext i hi; simp [jType]; grind
end jType

/-! ## FENCE (R79) -/

section fenceType
variable (fm pred succ : BitVec 4)

@[simp] theorem opcode_fenceType : opcode (fenceType fm pred succ) = 0b0001111#7 := by
  ext i hi; simp [opcode, fenceType]; grind
@[simp] theorem funct3_fenceType : funct3 (fenceType fm pred succ) = 0b000#3 := by
  ext i hi; simp [funct3, fenceType]; grind
@[simp] theorem fmField_fenceType : fmField (fenceType fm pred succ) = fm := by
  ext i hi; simp [fmField, fenceType]; grind
@[simp] theorem predField_fenceType : predField (fenceType fm pred succ) = pred := by
  ext i hi; simp [predField, fenceType]; grind
@[simp] theorem succField_fenceType : succField (fenceType fm pred succ) = succ := by
  ext i hi; simp [succField, fenceType]; grind
end fenceType

/-! ## Immediates that fit are what their field extends to (R80) -/

theorem signExtend_of_fitsSigned {n : Nat} (hn : 0 < n) (hn32 : n ≤ 32) {imm : Word} (h : fitsSigned n imm) :
    (imm.extractLsb' 0 n).signExtend 32 = imm := by
  obtain ⟨hlo, hhi⟩ : -(2 ^ (n - 1) : Int) ≤ imm.toInt ∧ imm.toInt < 2 ^ (n - 1) := by
    simpa [fitsSigned] using h
  apply BitVec.eq_of_toInt_eq
  rw [BitVec.toInt_signExtend_of_le hn32]
  have hset : imm.extractLsb' 0 n = imm.setWidth n := by
    ext i hi; simp
  have hpow : (2 : Int) ^ n = 2 * 2 ^ (n - 1) := by
    obtain ⟨m, rfl⟩ : ∃ m, n = m + 1 := ⟨n - 1, by omega⟩
    simp [pow_succ, mul_comm]
  have hdvd : (2 ^ n : Nat) ∣ 2 ^ 32 := pow_dvd_pow 2 hn32
  have hmod : ((imm.toNat : Int).bmod (2 ^ 32)).bmod (2 ^ n) = (imm.toNat : Int).bmod (2 ^ n) :=
    Int.bmod_bmod_of_dvd hdvd
  rw [hset, BitVec.toInt_setWidth, ← hmod, ← BitVec.toInt_eq_toNat_bmod]
  exact Int.bmod_eq_of_le (by push_cast; omega) (by push_cast; omega)

theorem fitsSigned_signExtend {n : Nat} (hn32 : n ≤ 32) (v : BitVec n) :
    fitsSigned n (v.signExtend 32) := by
  simp [fitsSigned, BitVec.toInt_signExtend_of_le hn32, BitVec.le_toInt v, BitVec.toInt_lt (x := v)]

theorem append_zero_of_isEven (imm : Word) (h : isEven imm) :
    (imm.extractLsb' 1 12 ++ 0#1) = imm.extractLsb' 0 13 := by
  have h0 : imm[0] = false := by
    have := congrArg (·[0]) (eq_of_beq h)
    simpa using this
  ext i hi
  simp
  grind

theorem append_zero_of_isEven_jal (imm : Word) (h : isEven imm) :
    (imm.extractLsb' 1 20 ++ 0#1) = imm.extractLsb' 0 21 := by
  have h0 : imm[0] = false := by
    have := congrArg (·[0]) (eq_of_beq h)
    simpa using this
  ext i hi
  simp
  grind

theorem append_zero_of_fitsU (imm : Word) (h : fitsU imm) : imm.extractLsb' 12 20 ++ 0#12 = imm := by
  have h0 : ∀ i, (hi : i < 12) → imm[i] = false := fun i hi => by
    have := congrArg (·[i]) (eq_of_beq h)
    simpa [BitVec.getLsbD_eq_getElem (show i < 32 by omega)] using this
  ext i hi
  simp
  grind

end Sys2Proof
end

