-- ==== Sys2Proof/Laws/Decode.lean ====
section
/-! SUPPORT. What the decoder can answer, said once, and the fields of a word that matches a row of R84's table. -/

namespace Sys2Proof

/-- Everything `decode` can answer when it answers an instruction: one case per row of R84, with the fields that select
it. To prove `P i` of a decoded instruction, prove it of each. -/
theorem decode_elim {w : Word} {i : Instr} (h : decode w = .ok i) {P : Instr → Prop}
    (H_lui : opcode w = 0x37#7 → P (.lui (rdField w) (immU w)))
    (H_auipc : opcode w = 0x17#7 → P (.auipc (rdField w) (immU w)))
    (H_jal : opcode w = 0x6F#7 → P (.jal (rdField w) (immJ w)))
    (H_jalr : opcode w = 0x67#7 → funct3 w = 0#3 → P (.jalr (rdField w) (rs1Field w) (immI w)))
    (H_beq : opcode w = 0x63#7 → funct3 w = 0#3 → P (.beq (rs1Field w) (rs2Field w) (immB w)))
    (H_bne : opcode w = 0x63#7 → funct3 w = 1#3 → P (.bne (rs1Field w) (rs2Field w) (immB w)))
    (H_blt : opcode w = 0x63#7 → funct3 w = 4#3 → P (.blt (rs1Field w) (rs2Field w) (immB w)))
    (H_bge : opcode w = 0x63#7 → funct3 w = 5#3 → P (.bge (rs1Field w) (rs2Field w) (immB w)))
    (H_bltu : opcode w = 0x63#7 → funct3 w = 6#3 → P (.bltu (rs1Field w) (rs2Field w) (immB w)))
    (H_bgeu : opcode w = 0x63#7 → funct3 w = 7#3 → P (.bgeu (rs1Field w) (rs2Field w) (immB w)))
    (H_lb : opcode w = 0x03#7 → funct3 w = 0#3 → P (.lb (rdField w) (rs1Field w) (immI w)))
    (H_lh : opcode w = 0x03#7 → funct3 w = 1#3 → P (.lh (rdField w) (rs1Field w) (immI w)))
    (H_lw : opcode w = 0x03#7 → funct3 w = 2#3 → P (.lw (rdField w) (rs1Field w) (immI w)))
    (H_lbu : opcode w = 0x03#7 → funct3 w = 4#3 → P (.lbu (rdField w) (rs1Field w) (immI w)))
    (H_lhu : opcode w = 0x03#7 → funct3 w = 5#3 → P (.lhu (rdField w) (rs1Field w) (immI w)))
    (H_sb : opcode w = 0x23#7 → funct3 w = 0#3 → P (.sb (rs1Field w) (rs2Field w) (immS w)))
    (H_sh : opcode w = 0x23#7 → funct3 w = 1#3 → P (.sh (rs1Field w) (rs2Field w) (immS w)))
    (H_sw : opcode w = 0x23#7 → funct3 w = 2#3 → P (.sw (rs1Field w) (rs2Field w) (immS w)))
    (H_addi : opcode w = 0x13#7 → funct3 w = 0#3 → P (.addi (rdField w) (rs1Field w) (immI w)))
    (H_slti : opcode w = 0x13#7 → funct3 w = 2#3 → P (.slti (rdField w) (rs1Field w) (immI w)))
    (H_sltiu : opcode w = 0x13#7 → funct3 w = 3#3 → P (.sltiu (rdField w) (rs1Field w) (immI w)))
    (H_xori : opcode w = 0x13#7 → funct3 w = 4#3 → P (.xori (rdField w) (rs1Field w) (immI w)))
    (H_ori : opcode w = 0x13#7 → funct3 w = 6#3 → P (.ori (rdField w) (rs1Field w) (immI w)))
    (H_andi : opcode w = 0x13#7 → funct3 w = 7#3 → P (.andi (rdField w) (rs1Field w) (immI w)))
    (H_slli : opcode w = 0x13#7 → funct3 w = 1#3 → funct7 w = 0x00#7 → P (.slli (rdField w) (rs1Field w) (shamtField w)))
    (H_srli : opcode w = 0x13#7 → funct3 w = 5#3 → funct7 w = 0x00#7 → P (.srli (rdField w) (rs1Field w) (shamtField w)))
    (H_srai : opcode w = 0x13#7 → funct3 w = 5#3 → funct7 w = 0x20#7 → P (.srai (rdField w) (rs1Field w) (shamtField w)))
    (H_add : opcode w = 0x33#7 → funct3 w = 0#3 → funct7 w = 0x00#7 → P (.add (rdField w) (rs1Field w) (rs2Field w)))
    (H_sub : opcode w = 0x33#7 → funct3 w = 0#3 → funct7 w = 0x20#7 → P (.sub (rdField w) (rs1Field w) (rs2Field w)))
    (H_sll : opcode w = 0x33#7 → funct3 w = 1#3 → funct7 w = 0x00#7 → P (.sll (rdField w) (rs1Field w) (rs2Field w)))
    (H_slt : opcode w = 0x33#7 → funct3 w = 2#3 → funct7 w = 0x00#7 → P (.slt (rdField w) (rs1Field w) (rs2Field w)))
    (H_sltu : opcode w = 0x33#7 → funct3 w = 3#3 → funct7 w = 0x00#7 → P (.sltu (rdField w) (rs1Field w) (rs2Field w)))
    (H_xor : opcode w = 0x33#7 → funct3 w = 4#3 → funct7 w = 0x00#7 → P (.xor (rdField w) (rs1Field w) (rs2Field w)))
    (H_srl : opcode w = 0x33#7 → funct3 w = 5#3 → funct7 w = 0x00#7 → P (.srl (rdField w) (rs1Field w) (rs2Field w)))
    (H_sra : opcode w = 0x33#7 → funct3 w = 5#3 → funct7 w = 0x20#7 → P (.sra (rdField w) (rs1Field w) (rs2Field w)))
    (H_or : opcode w = 0x33#7 → funct3 w = 6#3 → funct7 w = 0x00#7 → P (.or (rdField w) (rs1Field w) (rs2Field w)))
    (H_and : opcode w = 0x33#7 → funct3 w = 7#3 → funct7 w = 0x00#7 → P (.and (rdField w) (rs1Field w) (rs2Field w)))
    (H_fence : opcode w = 0x0F#7 → funct3 w = 0#3 → P (.fence (fmField w) (predField w) (succField w)))
    : P i := by
  unfold decode at h
  split at h
  all_goals try unfold decodeLoad at h
  all_goals try unfold decodeMiscMem at h
  all_goals try unfold decodeOpImm at h
  all_goals try unfold decodeStore at h
  all_goals try unfold decodeOp at h
  all_goals try unfold decodeBranch at h
  all_goals try unfold decodeJalr at h
  all_goals repeat' split at h
  all_goals first
    | (cases h; done)
    | (obtain rfl : _ = i := by simpa using h
       first
       | exact H_lui (by assumption)
       | exact H_auipc (by assumption)
       | exact H_jal (by assumption)
       | exact H_jalr (by assumption) (by assumption)
       | exact H_beq (by assumption) (by assumption)
       | exact H_bne (by assumption) (by assumption)
       | exact H_blt (by assumption) (by assumption)
       | exact H_bge (by assumption) (by assumption)
       | exact H_bltu (by assumption) (by assumption)
       | exact H_bgeu (by assumption) (by assumption)
       | exact H_lb (by assumption) (by assumption)
       | exact H_lh (by assumption) (by assumption)
       | exact H_lw (by assumption) (by assumption)
       | exact H_lbu (by assumption) (by assumption)
       | exact H_lhu (by assumption) (by assumption)
       | exact H_sb (by assumption) (by assumption)
       | exact H_sh (by assumption) (by assumption)
       | exact H_sw (by assumption) (by assumption)
       | exact H_addi (by assumption) (by assumption)
       | exact H_slti (by assumption) (by assumption)
       | exact H_sltiu (by assumption) (by assumption)
       | exact H_xori (by assumption) (by assumption)
       | exact H_ori (by assumption) (by assumption)
       | exact H_andi (by assumption) (by assumption)
       | exact H_slli (by assumption) (by assumption) (by assumption)
       | exact H_srli (by assumption) (by assumption) (by assumption)
       | exact H_srai (by assumption) (by assumption) (by assumption)
       | exact H_add (by assumption) (by assumption) (by assumption)
       | exact H_sub (by assumption) (by assumption) (by assumption)
       | exact H_sll (by assumption) (by assumption) (by assumption)
       | exact H_slt (by assumption) (by assumption) (by assumption)
       | exact H_sltu (by assumption) (by assumption) (by assumption)
       | exact H_xor (by assumption) (by assumption) (by assumption)
       | exact H_srl (by assumption) (by assumption) (by assumption)
       | exact H_sra (by assumption) (by assumption) (by assumption)
       | exact H_or (by assumption) (by assumption) (by assumption)
       | exact H_and (by assumption) (by assumption) (by assumption)
       | exact H_fence (by assumption) (by assumption))

/-- The one reason `decode` gives for no instruction (R85, R86). -/
theorem decode_error {w : Word} {r : Reject} (h : decode w = .error r) : r = .unsupported := by
  unfold decode at h
  split at h
  all_goals try unfold decodeLoad at h
  all_goals try unfold decodeMiscMem at h
  all_goals try unfold decodeOpImm at h
  all_goals try unfold decodeStore at h
  all_goals try unfold decodeOp at h
  all_goals try unfold decodeBranch at h
  all_goals try unfold decodeJalr at h
  all_goals repeat' split at h
  all_goals cases h
  all_goals rfl

/-- The selecting fields of a word that matches a row (R84): where the mask has all the bits of a field, the field is the
pattern's. -/
theorem fields_of_masked {w m p : Word} (h : w &&& m = p) :
    (m.extractLsb' 0 7 = 127#7 → opcode w = p.extractLsb' 0 7) ∧
    (m.extractLsb' 12 3 = 7#3 → funct3 w = p.extractLsb' 12 3) ∧
    (m.extractLsb' 25 7 = 127#7 → funct7 w = p.extractLsb' 25 7) := by
  subst h
  refine ⟨fun h => ?_, fun h => ?_, fun h => ?_⟩ <;> rw [BitVec.extractLsb'_and, h] <;>
    simp only [opcode, funct3, funct7] <;> ext i hi <;> simp <;> interval_cases i <;> simp

end Sys2Proof
end

