-- ==== Sys2Proof/Laws/Memory.lean ====
section
/-! SUPPORT. The laws of the sparse memory: read after write, the canonical form is kept by every operation, and
memories of one size with the same bytes are equal. -/

namespace Sys2Proof.Machine

/-! ## Cells -/

theorem cellAt_eq_zero_of_lt {cs : List Host.Cell} {a : Nat} (h : ∀ c ∈ cs, a < c.1) : cellAt cs a = 0#8 := by
  induction cs with
  | nil => rfl
  | cons c rest ih =>
    obtain ⟨k, b⟩ := c
    have hk : a < k := h (k, b) (by simp)
    have hrest : cellAt rest a = 0#8 := ih fun c hc => h c (by simp [hc])
    simp [cellAt, hrest, show k ≠ a by omega]

theorem mem_consCell {a : Nat} {v : Byte} {rest : List Host.Cell} {c : Host.Cell} (h : c ∈ consCell a v rest) :
    c ∈ rest ∨ (c = (a, v) ∧ v ≠ 0#8) := by
  unfold consCell at h
  split at h
  · exact .inl h
  · rcases List.mem_cons.mp h with h | h
    · exact .inr ⟨h, ‹_›⟩
    · exact .inl h

theorem consCell_pairwise {a : Nat} {v : Byte} {rest : List Host.Cell}
    (h : rest.Pairwise fun c d => c.1 < d.1) (ha : ∀ c ∈ rest, a < c.1) :
    (consCell a v rest).Pairwise fun c d => c.1 < d.1 := by
  unfold consCell
  split
  · exact h
  · exact List.pairwise_cons.mpr ⟨ha, h⟩

theorem cellAt_consCell {a : Nat} {v : Byte} {rest : List Host.Cell} (ha : ∀ c ∈ rest, a < c.1) (b : Nat) :
    cellAt (consCell a v rest) b = if b = a then v else cellAt rest b := by
  have hz := cellAt_eq_zero_of_lt ha
  unfold consCell
  split <;> rename_i hv
  · by_cases hb : b = a
    · simp [hb, hz, hv]
    · simp [hb]
  · simp [cellAt, eq_comm]

theorem mem_setCell {cs : List Host.Cell} {a : Nat} {v : Byte} {c : Host.Cell} (h : c ∈ setCell cs a v) :
    c ∈ cs ∨ (c = (a, v) ∧ v ≠ 0#8) := by
  induction cs with
  | nil => exact mem_consCell h
  | cons d rest ih =>
    obtain ⟨k, b⟩ := d
    simp only [setCell] at h
    split at h
    · rcases List.mem_cons.mp h with rfl | h
      · simp
      · rcases ih h with h | h <;> simp [h]
    · split at h
      · rcases mem_consCell h with h | h <;> simp [h]
      · exact mem_consCell h

theorem setCell_pairwise {cs : List Host.Cell} (a : Nat) (v : Byte)
    (h : cs.Pairwise fun c d => c.1 < d.1) : (setCell cs a v).Pairwise fun c d => c.1 < d.1 := by
  induction cs with
  | nil => exact consCell_pairwise h (by simp)
  | cons d rest ih =>
    obtain ⟨k, b⟩ := d
    obtain ⟨hhead, hrest⟩ := List.pairwise_cons.mp h
    simp only [setCell]
    split
    · rename_i hk
      refine List.pairwise_cons.mpr ⟨fun c hc => ?_, ih hrest⟩
      rcases mem_setCell hc with hc | ⟨rfl, -⟩
      · exact hhead c hc
      · exact hk
    · split
      · rename_i hka
        exact consCell_pairwise hrest fun c hc => hka ▸ hhead c hc
      · refine consCell_pairwise h fun c hc => ?_
        rcases List.mem_cons.mp hc with rfl | hc
        · simp only; omega
        · have := hhead c hc
          simp only at this; omega

theorem cellAt_setCell {cs : List Host.Cell} (a : Nat) (v : Byte) (b : Nat)
    (h : cs.Pairwise fun c d => c.1 < d.1) :
    cellAt (setCell cs a v) b = if b = a then v else cellAt cs b := by
  induction cs with
  | nil => exact cellAt_consCell (by simp) b
  | cons d rest ih =>
    obtain ⟨k, w⟩ := d
    obtain ⟨hhead, hrest⟩ := List.pairwise_cons.mp h
    simp only [setCell]
    split
    · simp only [cellAt, ih hrest]
      split <;> split <;> first | rfl | omega
    · split
      · rename_i hka
        subst hka
        rw [cellAt_consCell hhead]
        by_cases hb : b = k
        · simp [hb]
        · simp [hb, cellAt, Ne.symm hb]
      · refine cellAt_consCell (fun c hc => ?_) b
        rcases List.mem_cons.mp hc with rfl | hc
        · simp only; omega
        · have := hhead c hc
          simp only at this; omega

theorem cells_ext {cs ds : List Host.Cell} (hc : cs.Pairwise fun c d => c.1 < d.1)
    (hd : ds.Pairwise fun c d => c.1 < d.1) (hcz : ∀ c ∈ cs, c.2 ≠ 0#8) (hdz : ∀ c ∈ ds, c.2 ≠ 0#8)
    (h : ∀ a, cellAt cs a = cellAt ds a) : cs = ds := by
  induction cs generalizing ds with
  | nil =>
    cases ds with
    | nil => rfl
    | cons d rest =>
      have := h d.1
      simp [cellAt] at this
      exact absurd this.symm (hdz d (by simp))
  | cons c crest ih =>
    cases ds with
    | nil =>
      have := h c.1
      simp [cellAt] at this
      exact absurd this (hcz c (by simp))
    | cons d drest =>
      obtain ⟨k, v⟩ := c
      obtain ⟨l, w⟩ := d
      obtain ⟨hch, hcr⟩ := List.pairwise_cons.mp hc
      obtain ⟨hdh, hdr⟩ := List.pairwise_cons.mp hd
      have hv : v ≠ 0#8 := hcz (k, v) (by simp)
      have hw : w ≠ 0#8 := hdz (l, w) (by simp)
      have hcz0 : ∀ x, x ≤ k → cellAt crest x = 0#8 := fun x hx =>
        cellAt_eq_zero_of_lt fun c hc => by have := hch c hc; simp only at this; omega
      have hdz0 : ∀ x, x ≤ l → cellAt drest x = 0#8 := fun x hx =>
        cellAt_eq_zero_of_lt fun c hc => by have := hdh c hc; simp only at this; omega
      have hkl : k = l := by
        by_contra hne
        rcases Nat.lt_or_gt_of_ne hne with hlt | hlt
        · have := h k
          simp [cellAt, show l ≠ k by omega, hdz0 k (by omega)] at this
          exact hv this
        · have := h l
          simp [cellAt, show k ≠ l by omega, hcz0 l (by omega)] at this
          exact hw this.symm
      subst hkl
      have hvw : v = w := by simpa [cellAt] using h k
      subst hvw
      refine congrArg _ (ih hcr hdr (fun c hc => hcz c (by simp [hc])) (fun c hc => hdz c (by simp [hc])) fun a => ?_)
      by_cases hak : a ≤ k
      · rw [hcz0 a hak, hdz0 a hak]
      · simpa [cellAt, show k ≠ a by omega] using h a

namespace Memory

/-! ## Bytes -/

@[simp] theorem setByte_size (m : Memory) (a : Nat) (v : Byte) : (m.setByte a v).size = m.size := rfl

@[simp] theorem zeroed_size (n : Nat) : (zeroed n).size = n := rfl

@[simp] theorem byteAt_zeroed (n a : Nat) : (zeroed n).byteAt a = 0#8 := rfl

theorem byteAt_setByte {m : Memory} (hm : m.wf) (a : Nat) (v : Byte) (b : Nat) :
    (m.setByte a v).byteAt b = if b = a then v else m.byteAt b :=
  cellAt_setCell a v b hm.2.2.1

/-- An address past the end of a canonical memory reads 0. -/
theorem byteAt_of_size_le {m : Memory} (hm : m.wf) {a : Nat} (ha : m.size ≤ a) : m.byteAt a = 0#8 := by
  obtain ⟨size, cells⟩ := m
  obtain ⟨-, -, -, hc⟩ := hm
  simp only [byteAt] at *
  induction cells with
  | nil => rfl
  | cons c rest ih =>
    obtain ⟨k, b⟩ := c
    have hk : k < size := (hc (k, b) (by simp)).1
    simp [cellAt, show k ≠ a by omega, ih fun c h => hc c (by simp [h])]

theorem zeroed_wf {n : Nat} (h1 : Config.minMemSize ≤ n) (h2 : n ≤ Config.maxMemSize) : (zeroed n).wf :=
  ⟨h1, h2, by simp [zeroed], by simp [zeroed]⟩

theorem setByte_wf {m : Memory} (hm : m.wf) {a : Nat} (ha : a < m.size) (v : Byte) : (m.setByte a v).wf := by
  refine ⟨hm.1, hm.2.1, setCell_pairwise a v hm.2.2.1, fun c hc => ?_⟩
  rcases mem_setCell hc with hc | ⟨rfl, hv⟩
  · exact hm.2.2.2 c hc
  · exact ⟨ha, hv⟩

/-- Two canonical memories of one size with the same bytes are equal. -/
theorem ext_of_byteAt {m n : Memory} (hm : m.wf) (hn : n.wf) (hsize : m.size = n.size)
    (h : ∀ a, m.byteAt a = n.byteAt a) : m = n := by
  obtain ⟨sm, cm⟩ := m
  obtain ⟨sn, cn⟩ := n
  have : cm = cn := cells_ext hm.2.2.1 hn.2.2.1 (fun c hc => (hm.2.2.2 c hc).2) (fun c hc => (hn.2.2.2 c hc).2) h
  simp_all

/-! ## Wide accesses -/

@[simp] theorem scatter_size (m : Memory) (a : Nat) (v : Word) (n : Nat) : (m.scatter a v n).size = m.size := by
  induction n with
  | zero => rfl
  | succ n ih => simp [scatter, ih]

theorem scatter_wf {m : Memory} (hm : m.wf) {a : Nat} (v : Word) {n : Nat} (h : a + n ≤ m.size) :
    (m.scatter a v n).wf := by
  induction n with
  | zero => exact hm
  | succ n ih => exact setByte_wf (ih (by omega)) (by simp; omega) _

/-- Everything a wide write does: byte a+i becomes bits [8i+7:8i] of v for i < n, every other byte stays. -/
theorem byteAt_scatter {m : Memory} (hm : m.wf) {a : Nat} (v : Word) {n : Nat} (h : a + n ≤ m.size) (b : Nat) :
    (m.scatter a v n).byteAt b =
      if a ≤ b ∧ b < a + n then v.extractLsb' (8 * (b - a)) 8 else m.byteAt b := by
  induction n with
  | zero => simp only [scatter]; split <;> first | omega | rfl
  | succ n ih =>
    rw [scatter, byteAt_setByte (scatter_wf hm v (by omega)), ih (by omega)]
    by_cases hb : b = a + n
    · subst hb; simp
    · rw [if_neg hb]
      split <;> split <;> first | rfl | omega

theorem gather_congr {m n : Memory} {a : Nat} (w : Width)
    (h : ∀ b, a ≤ b → b < a + w.bytes → m.byteAt b = n.byteAt b) : m.gather a w = n.gather a w := by
  cases w
  · exact h a (by omega) (by simp [Width.bytes])
  · simp only [gather, h a (by omega) (by simp [Width.bytes]), h (a + 1) (by omega) (by simp [Width.bytes])]
  · simp only [gather, h a (by omega) (by simp [Width.bytes]), h (a + 1) (by omega) (by simp [Width.bytes]),
      h (a + 2) (by omega) (by simp [Width.bytes]), h (a + 3) (by omega) (by simp [Width.bytes])]

end Memory

end Sys2Proof.Machine
end

