-- ==== Sys2Proof/Laws/Ops.lean ====
section
/-! SUPPORT. One lemma per shared operation of Machine/Ops.lean and Machine/Operands.lean that says everything it
can do. -/

namespace Sys2Proof.Machine

/-! ## Registers -/

@[simp] theorem readReg_zero (s : State) : readReg s 0 = 0#32 := rfl

theorem readReg_writeReg (s : State) (i : RegIdx) (v : Word) (j : RegIdx) :
    readReg (writeReg s i v) j = if j = i ∧ i ≠ 0 then v else readReg s j := by
  unfold readReg writeReg
  by_cases hi : i = 0
  · simp [hi]
  · by_cases hj : j = 0
    · simp [hj, Ne.symm hi]
    · by_cases hji : j = i
      · subst hji; simp [hj]
      · have : (i : Nat) ≠ (j : Nat) := fun h => hji (Fin.ext h.symm)
        simp [hi, hj, hji, this]

@[simp] theorem writeReg_pc (s : State) (i : RegIdx) (v : Word) : (writeReg s i v).pc = s.pc := by
  unfold writeReg; split <;> rfl
@[simp] theorem writeReg_run (s : State) (i : RegIdx) (v : Word) : (writeReg s i v).run = s.run := by
  unfold writeReg; split <;> rfl
@[simp] theorem writeReg_mem (s : State) (i : RegIdx) (v : Word) : (writeReg s i v).mem = s.mem := by
  unfold writeReg; split <;> rfl

theorem writeReg_zero_cell (s : State) (i : RegIdx) (v : Word) : (writeReg s i v).regs[0] = s.regs[0] := by
  unfold writeReg
  split
  · rfl
  · rename_i h
    have : (i : Nat) ≠ 0 := fun h0 => h (Fin.ext h0)
    simp [this]

@[simp] theorem readReg_setPc (s : State) (a : Word) (i : RegIdx) : readReg (s.setPc a) i = readReg s i := rfl
@[simp] theorem readReg_setRun (s : State) (r : RunState) (i : RegIdx) : readReg (s.setRun r) i = readReg s i := rfl
@[simp] theorem readReg_setMem (s : State) (m : Memory) (i : RegIdx) : readReg (s.setMem m) i = readReg s i := rfl

/-! ## Memory primitives -/

theorem memRead_of_inBounds {m : Memory} {a : Word} {n : Width} (h : inBounds m a n) :
    memRead m a n = .ok (m.gather a.toNat n) := if_pos h

theorem memRead_of_not_inBounds {m : Memory} {a : Word} {n : Width} (h : ¬ inBounds m a n) :
    memRead m a n = .error .outOfBounds := if_neg h

theorem memWrite_of_inBounds {m : Memory} {a : Word} {n : Width} (v : Word) (h : inBounds m a n) :
    memWrite m a n v = .ok (m.scatter a.toNat v n.bytes) := if_pos h

theorem memWrite_of_not_inBounds {m : Memory} {a : Word} {n : Width} (v : Word) (h : ¬ inBounds m a n) :
    memWrite m a n v = .error .outOfBounds := if_neg h

theorem memWrite_ok {m m' : Memory} {a : Word} {n : Width} {v : Word} (h : memWrite m a n v = .ok m') :
    inBounds m a n ∧ m' = m.scatter a.toNat v n.bytes := by
  unfold memWrite at h
  split at h
  · exact ⟨‹_›, by simpa using h.symm⟩
  · cases h

/-- Every checked write keeps the canonical form. -/
theorem memWrite_wf {m m' : Memory} {a : Word} {n : Width} {v : Word} (hm : m.wf) (h : memWrite m a n v = .ok m') :
    m'.wf := by
  obtain ⟨hb, rfl⟩ := memWrite_ok h
  exact Memory.scatter_wf hm v hb

theorem State.reset_mem_wf : State.reset.mem.wf := Memory.zeroed_wf (by decide) (by decide)

/-! ## Commit -/

@[simp] theorem commit_pc (e : Effect) (s : State) : (commit e s).pc = e.next := rfl

@[simp] theorem commit_run (e : Effect) (s : State) : (commit e s).run = s.run := by
  rcases e with ⟨_ | ⟨_, _⟩, _ | _, _⟩ <;> simp [commit, commitReg, commitStore]

theorem commit_mem (e : Effect) (s : State) :
    (commit e s).mem =
      match e.store with
      | none => s.mem
      | some w => s.mem.scatter w.addr.toNat w.value w.width.bytes := by
  rcases e with ⟨_ | ⟨_, _⟩, _ | _, _⟩ <;> simp [commit, commitReg, commitStore]

theorem readReg_commit (e : Effect) (s : State) (j : RegIdx) :
    readReg (commit e s) j =
      match e.reg with
      | none => readReg s j
      | some (i, v) => if j = i ∧ i ≠ 0 then v else readReg s j := by
  rcases e with ⟨_ | ⟨_, _⟩, _ | _, _⟩ <;> simp [commit, commitReg, commitStore, readReg_writeReg]

theorem commit_zero_cell (e : Effect) (s : State) : (commit e s).regs[0] = s.regs[0] := by
  rcases e with ⟨_ | ⟨_, _⟩, _ | _, _⟩ <;> simp [commit, commitReg, commitStore, writeReg_zero_cell]

@[simp] theorem settle_ok (e : Effect) (s : State) : settle (.ok e) s = .next (commit e s) := rfl
@[simp] theorem settle_error (k : Fault) (s : State) : settle (.error k) s = .next (s.setRun (.faulted k)) := rfl

/-- Everything execute can end in: a commit, or a fault entry. -/
theorem settle_cases (r : Except Fault Effect) (s : State) :
    (∃ e, r = .ok e ∧ settle r s = .next (commit e s)) ∨
    (∃ k, r = .error k ∧ settle r s = .next (s.setRun (.faulted k))) := by
  cases r with
  | ok e => exact .inl ⟨e, rfl, rfl⟩
  | error k => exact .inr ⟨k, rfl, rfl⟩

/-! ## Alignment -/

theorem aligned_iff (a : Word) : aligned a ↔ a.toNat % 4 = 0 := by
  unfold aligned
  rw [← BitVec.toNat_inj]
  simp

theorem aligned_add_four {a : Word} (h : aligned a) : aligned (a + 4#32) := by
  rw [aligned_iff] at *
  rw [BitVec.toNat_add]
  simp only [BitVec.toNat_ofNat]
  omega

/-! ## The effects -/

/-- What an effect of this machine can be, said once (R104, R105): its store was checked against the bounds, and
its next pc is aligned when the pc was. -/
structure Effect.Sound (e : Effect) (s : State) : Prop where
  store_inBounds : ∀ w, e.store = some w → inBounds s.mem w.addr w.width
  next_aligned : aligned s.pc → aligned e.next

theorem resultEffect_sound {s : State} {rd : RegIdx} {v : Word} {e : Effect} (h : resultEffect s rd v = .ok e) :
    e.Sound s ∧ e.store = none ∧ e.next = sequentialPc s := by
  obtain rfl : _ = e := by simpa [resultEffect] using h
  exact ⟨⟨by simp, aligned_add_four⟩, rfl, rfl⟩

theorem loadEffect_sound {s : State} {n : Width} {x : Extension} {rd rs1 : RegIdx} {imm : Word} {e : Effect}
    (h : loadEffect s n x rd rs1 imm = .ok e) : e.Sound s ∧ e.store = none ∧ e.next = sequentialPc s := by
  unfold loadEffect at h
  split at h
  · exact resultEffect_sound h
  · cases h

theorem storeEffect_sound {s : State} {n : Width} {rs1 rs2 : RegIdx} {imm : Word} {e : Effect}
    (h : storeEffect s n rs1 rs2 imm = .ok e) : e.Sound s ∧ e.reg = none ∧ e.next = sequentialPc s := by
  unfold storeEffect at h
  split at h
  · rename_i hb
    obtain rfl : _ = e := by simpa using h
    exact ⟨⟨fun w hw => by obtain rfl : _ = w := by simpa using hw
                           exact hb, aligned_add_four⟩, rfl, rfl⟩
  · cases h

theorem loadEffect_of_inBounds {s : State} {n : Width} {rs1 : RegIdx} {imm : Word} (x : Extension) (rd : RegIdx)
    (h : inBounds s.mem (effectiveAddress s rs1 imm) n) :
    loadEffect s n x rd rs1 imm =
      resultEffect s rd (extend x (s.mem.gather (effectiveAddress s rs1 imm).toNat n)) := by
  unfold loadEffect
  rw [memRead_of_inBounds h]

theorem loadEffect_of_not_inBounds {s : State} {n : Width} {rs1 : RegIdx} {imm : Word} (x : Extension) (rd : RegIdx)
    (h : ¬ inBounds s.mem (effectiveAddress s rs1 imm) n) : loadEffect s n x rd rs1 imm = .error .outOfBounds := by
  unfold loadEffect
  rw [memRead_of_not_inBounds h]

theorem storeEffect_of_inBounds {s : State} {n : Width} {rs1 : RegIdx} {imm : Word} (rs2 : RegIdx)
    (h : inBounds s.mem (effectiveAddress s rs1 imm) n) :
    storeEffect s n rs1 rs2 imm =
      .ok { reg := none, store := some ⟨effectiveAddress s rs1 imm, n, readReg s rs2⟩, next := sequentialPc s } :=
  if_pos h

theorem storeEffect_of_not_inBounds {s : State} {n : Width} {rs1 : RegIdx} {imm : Word} (rs2 : RegIdx)
    (h : ¬ inBounds s.mem (effectiveAddress s rs1 imm) n) : storeEffect s n rs1 rs2 imm = .error .outOfBounds :=
  if_neg h

theorem checkTarget_of_aligned {t : Word} (h : aligned t) : checkTarget t = .ok t := if_pos h

theorem checkTarget_of_not_aligned {t : Word} (h : ¬ aligned t) : checkTarget t = .error .misalignedAccess := if_neg h

theorem jumpEffect_of_aligned {s : State} (rd : RegIdx) {target : Word} (h : aligned target) :
    jumpEffect s rd target = .ok { reg := some (rd, sequentialPc s), store := none, next := target } := by
  unfold jumpEffect
  rw [checkTarget_of_aligned h]

theorem jumpEffect_of_not_aligned {s : State} (rd : RegIdx) {target : Word} (h : ¬ aligned target) :
    jumpEffect s rd target = .error .misalignedAccess := by
  unfold jumpEffect
  rw [checkTarget_of_not_aligned h]

theorem branchEffect_of_aligned {s : State} {imm : Word} (h : aligned (relativeTarget s imm)) :
    branchEffect s true imm = .ok { reg := none, store := none, next := relativeTarget s imm } := by
  unfold branchEffect
  rw [if_pos rfl, checkTarget_of_aligned h]

theorem branchEffect_of_not_aligned {s : State} {imm : Word} (h : ¬ aligned (relativeTarget s imm)) :
    branchEffect s true imm = .error .misalignedAccess := by
  unfold branchEffect
  rw [if_pos rfl, checkTarget_of_not_aligned h]

theorem branchEffect_not_taken (s : State) (imm : Word) :
    branchEffect s false imm = .ok { reg := none, store := none, next := sequentialPc s } := rfl

theorem checkTarget_ok {t u : Word} (h : checkTarget t = .ok u) : u = t ∧ aligned t := by
  unfold checkTarget at h
  split at h
  · exact ⟨by simpa using h.symm, ‹_›⟩
  · cases h

theorem jumpEffect_sound {s : State} {rd : RegIdx} {target : Word} {e : Effect}
    (h : jumpEffect s rd target = .ok e) : e.Sound s ∧ e.store = none ∧ e.next = target := by
  unfold jumpEffect at h
  split at h
  · rename_i t ht
    obtain ⟨rfl, ha⟩ := checkTarget_ok ht
    obtain rfl : _ = e := by simpa using h
    exact ⟨⟨by simp, fun _ => ha⟩, rfl, rfl⟩
  · cases h

theorem branchEffect_sound {s : State} {taken : Bool} {imm : Word} {e : Effect}
    (h : branchEffect s taken imm = .ok e) : e.Sound s ∧ e.store = none ∧ e.reg = none := by
  unfold branchEffect at h
  split at h
  · split at h
    · rename_i t ht
      obtain ⟨rfl, ha⟩ := checkTarget_ok ht
      obtain rfl : _ = e := by simpa using h
      exact ⟨⟨by simp, fun _ => ha⟩, rfl, rfl⟩
    · cases h
  · obtain rfl : _ = e := by simpa using h
    exact ⟨⟨by simp, aligned_add_four⟩, rfl, rfl⟩

theorem nopEffect_sound {s : State} {e : Effect} (h : nopEffect s = .ok e) :
    e.Sound s ∧ e.store = none ∧ e.reg = none ∧ e.next = sequentialPc s := by
  obtain rfl : _ = e := by simpa [nopEffect] using h
  exact ⟨⟨by simp, aligned_add_four⟩, rfl, rfl, rfl⟩

/-! ## Fetch (R102, R103) -/

theorem fetch_of_not_aligned {s : State} (h : ¬ aligned s.pc) : fetch s = .error .misalignedAccess := if_neg h

theorem fetch_of_aligned {s : State} (h : aligned s.pc) : fetch s = memRead s.mem s.pc .word := if_pos h

theorem fetch_of_inBounds {s : State} (h : aligned s.pc) (hb : inBounds s.mem s.pc .word) :
    fetch s = .ok (s.mem.gather s.pc.toNat .word) := (fetch_of_aligned h).trans (memRead_of_inBounds hb)

theorem fetchInstr_of_fetch_error {s : State} {k : Fault} (h : fetch s = .error k) : fetchInstr s = .error k := by
  simp [fetchInstr, h]

theorem fetchInstr_of_decode {s : State} {w : Word} {i : Instr} (h : fetch s = .ok w) (hd : decode w = .ok i) :
    fetchInstr s = .ok i := by
  simp [fetchInstr, h, hd]

theorem fetchInstr_of_decode_error {s : State} {w : Word} {r : Reject} (h : fetch s = .ok w)
    (hd : decode w = .error r) : fetchInstr s = .error .illegalInstruction := by
  simp [fetchInstr, h, hd]

end Sys2Proof.Machine
end

