-- ==== Sys2Proof/Laws/PerInstr.lean ====
section
/-! SUPPORT. The per-instruction family RowMatch: an instruction's word, as the encoder builds it from the formats
(R72 to R79), matches the row that R84's table prints for the instruction. -/

namespace Sys2Proof

/-! ## What a mask of the table keeps of a word (R84) -/

theorem and_mask_opcode (w : Word) : w &&& 0x0000007F#32 = (opcode w).setWidth 32 := by
  ext i hi
  simp [opcode]
  interval_cases i <;> simp

theorem and_mask_funct3 (w : Word) :
    w &&& 0x0000707F#32 = (opcode w).setWidth 32 ||| (funct3 w).setWidth 32 <<< 12 := by
  ext i hi
  simp [opcode, funct3]
  interval_cases i <;> simp

theorem and_mask_funct7 (w : Word) :
    w &&& 0xFE00707F#32 =
      (opcode w).setWidth 32 ||| (funct3 w).setWidth 32 <<< 12 ||| (funct7 w).setWidth 32 <<< 25 := by
  ext i hi
  simp [opcode, funct3, funct7]
  interval_cases i <;> simp

namespace Laws.RowMatch

/-- The word of `i` matches the row of `i`. -/
def Statement (i : Instr) : Prop := (Instr.row i).holds (encode i) = true

end Laws.RowMatch

theorem Laws.RowMatch.lui (rd : RegIdx) (imm : Word) : Laws.RowMatch.Statement (.lui rd imm) := by
  simp [Statement, Row.holds, Instr.row, encode, and_mask_opcode]
theorem Laws.RowMatch.auipc (rd : RegIdx) (imm : Word) : Laws.RowMatch.Statement (.auipc rd imm) := by
  simp [Statement, Row.holds, Instr.row, encode, and_mask_opcode]
theorem Laws.RowMatch.jal (rd : RegIdx) (imm : Word) : Laws.RowMatch.Statement (.jal rd imm) := by
  simp [Statement, Row.holds, Instr.row, encode, and_mask_opcode]
theorem Laws.RowMatch.jalr (rd rs1 : RegIdx) (imm : Word) : Laws.RowMatch.Statement (.jalr rd rs1 imm) := by
  simp [Statement, Row.holds, Instr.row, encode, and_mask_funct3]
theorem Laws.RowMatch.beq (rs1 rs2 : RegIdx) (imm : Word) : Laws.RowMatch.Statement (.beq rs1 rs2 imm) := by
  simp [Statement, Row.holds, Instr.row, encode, and_mask_funct3]
theorem Laws.RowMatch.bne (rs1 rs2 : RegIdx) (imm : Word) : Laws.RowMatch.Statement (.bne rs1 rs2 imm) := by
  simp [Statement, Row.holds, Instr.row, encode, and_mask_funct3]
theorem Laws.RowMatch.blt (rs1 rs2 : RegIdx) (imm : Word) : Laws.RowMatch.Statement (.blt rs1 rs2 imm) := by
  simp [Statement, Row.holds, Instr.row, encode, and_mask_funct3]
theorem Laws.RowMatch.bge (rs1 rs2 : RegIdx) (imm : Word) : Laws.RowMatch.Statement (.bge rs1 rs2 imm) := by
  simp [Statement, Row.holds, Instr.row, encode, and_mask_funct3]
theorem Laws.RowMatch.bltu (rs1 rs2 : RegIdx) (imm : Word) : Laws.RowMatch.Statement (.bltu rs1 rs2 imm) := by
  simp [Statement, Row.holds, Instr.row, encode, and_mask_funct3]
theorem Laws.RowMatch.bgeu (rs1 rs2 : RegIdx) (imm : Word) : Laws.RowMatch.Statement (.bgeu rs1 rs2 imm) := by
  simp [Statement, Row.holds, Instr.row, encode, and_mask_funct3]
theorem Laws.RowMatch.lb (rd rs1 : RegIdx) (imm : Word) : Laws.RowMatch.Statement (.lb rd rs1 imm) := by
  simp [Statement, Row.holds, Instr.row, encode, and_mask_funct3]
theorem Laws.RowMatch.lh (rd rs1 : RegIdx) (imm : Word) : Laws.RowMatch.Statement (.lh rd rs1 imm) := by
  simp [Statement, Row.holds, Instr.row, encode, and_mask_funct3]
theorem Laws.RowMatch.lw (rd rs1 : RegIdx) (imm : Word) : Laws.RowMatch.Statement (.lw rd rs1 imm) := by
  simp [Statement, Row.holds, Instr.row, encode, and_mask_funct3]
theorem Laws.RowMatch.lbu (rd rs1 : RegIdx) (imm : Word) : Laws.RowMatch.Statement (.lbu rd rs1 imm) := by
  simp [Statement, Row.holds, Instr.row, encode, and_mask_funct3]
theorem Laws.RowMatch.lhu (rd rs1 : RegIdx) (imm : Word) : Laws.RowMatch.Statement (.lhu rd rs1 imm) := by
  simp [Statement, Row.holds, Instr.row, encode, and_mask_funct3]
theorem Laws.RowMatch.sb (rs1 rs2 : RegIdx) (imm : Word) : Laws.RowMatch.Statement (.sb rs1 rs2 imm) := by
  simp [Statement, Row.holds, Instr.row, encode, and_mask_funct3]
theorem Laws.RowMatch.sh (rs1 rs2 : RegIdx) (imm : Word) : Laws.RowMatch.Statement (.sh rs1 rs2 imm) := by
  simp [Statement, Row.holds, Instr.row, encode, and_mask_funct3]
theorem Laws.RowMatch.sw (rs1 rs2 : RegIdx) (imm : Word) : Laws.RowMatch.Statement (.sw rs1 rs2 imm) := by
  simp [Statement, Row.holds, Instr.row, encode, and_mask_funct3]
theorem Laws.RowMatch.addi (rd rs1 : RegIdx) (imm : Word) : Laws.RowMatch.Statement (.addi rd rs1 imm) := by
  simp [Statement, Row.holds, Instr.row, encode, and_mask_funct3]
theorem Laws.RowMatch.slti (rd rs1 : RegIdx) (imm : Word) : Laws.RowMatch.Statement (.slti rd rs1 imm) := by
  simp [Statement, Row.holds, Instr.row, encode, and_mask_funct3]
theorem Laws.RowMatch.sltiu (rd rs1 : RegIdx) (imm : Word) : Laws.RowMatch.Statement (.sltiu rd rs1 imm) := by
  simp [Statement, Row.holds, Instr.row, encode, and_mask_funct3]
theorem Laws.RowMatch.xori (rd rs1 : RegIdx) (imm : Word) : Laws.RowMatch.Statement (.xori rd rs1 imm) := by
  simp [Statement, Row.holds, Instr.row, encode, and_mask_funct3]
theorem Laws.RowMatch.ori (rd rs1 : RegIdx) (imm : Word) : Laws.RowMatch.Statement (.ori rd rs1 imm) := by
  simp [Statement, Row.holds, Instr.row, encode, and_mask_funct3]
theorem Laws.RowMatch.andi (rd rs1 : RegIdx) (imm : Word) : Laws.RowMatch.Statement (.andi rd rs1 imm) := by
  simp [Statement, Row.holds, Instr.row, encode, and_mask_funct3]
theorem Laws.RowMatch.slli (rd rs1 : RegIdx) (shamt : BitVec 5) : Laws.RowMatch.Statement (.slli rd rs1 shamt) := by
  simp [Statement, Row.holds, Instr.row, encode, and_mask_funct7]
theorem Laws.RowMatch.srli (rd rs1 : RegIdx) (shamt : BitVec 5) : Laws.RowMatch.Statement (.srli rd rs1 shamt) := by
  simp [Statement, Row.holds, Instr.row, encode, and_mask_funct7]
theorem Laws.RowMatch.srai (rd rs1 : RegIdx) (shamt : BitVec 5) : Laws.RowMatch.Statement (.srai rd rs1 shamt) := by
  simp [Statement, Row.holds, Instr.row, encode, and_mask_funct7]
theorem Laws.RowMatch.add (rd rs1 rs2 : RegIdx) : Laws.RowMatch.Statement (.add rd rs1 rs2) := by
  simp [Statement, Row.holds, Instr.row, encode, and_mask_funct7]
theorem Laws.RowMatch.sub (rd rs1 rs2 : RegIdx) : Laws.RowMatch.Statement (.sub rd rs1 rs2) := by
  simp [Statement, Row.holds, Instr.row, encode, and_mask_funct7]
theorem Laws.RowMatch.sll (rd rs1 rs2 : RegIdx) : Laws.RowMatch.Statement (.sll rd rs1 rs2) := by
  simp [Statement, Row.holds, Instr.row, encode, and_mask_funct7]
theorem Laws.RowMatch.slt (rd rs1 rs2 : RegIdx) : Laws.RowMatch.Statement (.slt rd rs1 rs2) := by
  simp [Statement, Row.holds, Instr.row, encode, and_mask_funct7]
theorem Laws.RowMatch.sltu (rd rs1 rs2 : RegIdx) : Laws.RowMatch.Statement (.sltu rd rs1 rs2) := by
  simp [Statement, Row.holds, Instr.row, encode, and_mask_funct7]
theorem Laws.RowMatch.xor (rd rs1 rs2 : RegIdx) : Laws.RowMatch.Statement (.xor rd rs1 rs2) := by
  simp [Statement, Row.holds, Instr.row, encode, and_mask_funct7]
theorem Laws.RowMatch.srl (rd rs1 rs2 : RegIdx) : Laws.RowMatch.Statement (.srl rd rs1 rs2) := by
  simp [Statement, Row.holds, Instr.row, encode, and_mask_funct7]
theorem Laws.RowMatch.sra (rd rs1 rs2 : RegIdx) : Laws.RowMatch.Statement (.sra rd rs1 rs2) := by
  simp [Statement, Row.holds, Instr.row, encode, and_mask_funct7]
theorem Laws.RowMatch.or (rd rs1 rs2 : RegIdx) : Laws.RowMatch.Statement (.or rd rs1 rs2) := by
  simp [Statement, Row.holds, Instr.row, encode, and_mask_funct7]
theorem Laws.RowMatch.and (rd rs1 rs2 : RegIdx) : Laws.RowMatch.Statement (.and rd rs1 rs2) := by
  simp [Statement, Row.holds, Instr.row, encode, and_mask_funct7]
theorem Laws.RowMatch.fence (fm pred succ : BitVec 4) : Laws.RowMatch.Statement (.fence fm pred succ) := by
  simp [Statement, Row.holds, Instr.row, encode, and_mask_funct3]

end Sys2Proof
end

