-- ==== Sys2Proof/Laws/Step.lean ====
section
/-! SUPPORT. What executing an instruction and taking a step can do, said once. -/

namespace Sys2Proof.Machine

/-- Every instruction ends in `settle` of a sound effect or of a fault (R104, R106). -/
theorem exec_settle (i : Instr) (s : State) :
    ∃ r, exec i s = settle r s ∧ ∀ e, r = .ok e → e.Sound s := by
  cases i with
  | lui | auipc | addi | slti | sltiu | xori | ori | andi | slli | srli | srai
  | add | sub | sll | slt | sltu | xor | srl | sra | or | and =>
    exact ⟨_, rfl, fun _ h => (resultEffect_sound h).1⟩
  | lb | lh | lw | lbu | lhu => exact ⟨_, rfl, fun _ h => (loadEffect_sound h).1⟩
  | sb | sh | sw => exact ⟨_, rfl, fun _ h => (storeEffect_sound h).1⟩
  | jal | jalr => exact ⟨_, rfl, fun _ h => (jumpEffect_sound h).1⟩
  | beq | bne | blt | bge | bltu | bgeu => exact ⟨_, rfl, fun _ h => (branchEffect_sound h).1⟩
  | fence => exact ⟨_, rfl, fun _ h => (nopEffect_sound h).1⟩

/-- Everything an instruction can do: commit a sound effect, or enter the faulted state. -/
theorem exec_cases (i : Instr) (s : State) :
    (∃ e : Effect, e.Sound s ∧ exec i s = .next (commit e s)) ∨
    (∃ k, exec i s = .next (s.setRun (.faulted k))) := by
  obtain ⟨r, hr, hs⟩ := exec_settle i s
  rcases settle_cases r s with ⟨e, he, h⟩ | ⟨k, -, h⟩
  · exact .inl ⟨e, hs e he, hr.trans h⟩
  · exact .inr ⟨k, hr.trans h⟩

theorem step_faulted {s : State} {k : Fault} (h : s.run = .faulted k) : step s = .fault k := by
  simp [step, h, reportAgain]

theorem step_of_fetchInstr {s : State} {i : Instr} (hr : s.run = .running) (h : fetchInstr s = .ok i) :
    step s = exec i s := by
  simp [step, hr, h]

theorem step_of_fetch_error {s : State} {k : Fault} (hr : s.run = .running) (h : fetchInstr s = .error k) :
    step s = .next (s.setRun (.faulted k)) := by
  simp [step, hr, h, raise]

/-- Everything a step can do (R100): report again, enter the faulted state, or commit a sound effect. -/
theorem step_cases (s : State) :
    (∃ k, s.run = .faulted k ∧ step s = .fault k) ∨
    (s.run = .running ∧ ∃ k, step s = .next (s.setRun (.faulted k))) ∨
    (s.run = .running ∧ ∃ e : Effect, e.Sound s ∧ step s = .next (commit e s)) := by
  cases hr : s.run with
  | faulted k => exact .inl ⟨k, rfl, step_faulted hr⟩
  | running =>
    refine .inr ?_
    cases hf : fetchInstr s with
    | error k => exact .inl ⟨rfl, k, step_of_fetch_error hr hf⟩
    | ok i =>
      rw [step_of_fetchInstr hr hf]
      rcases exec_cases i s with ⟨e, he, h⟩ | ⟨k, h⟩
      · exact .inr ⟨rfl, e, he, h⟩
      · exact .inl ⟨rfl, k, h⟩

end Sys2Proof.Machine
end

