-- ==== Sys2Proof/Tests/Slice0.lean ====
section
/-! SUPPORT. The model's own tests: well-formedness, decoding, single steps, and for every obligation with hypotheses a
concrete state and operands that meet them. Expected results are the vectors of 95_test_vectors.md, or are worked out
by hand from the formats of 30_encoding.md. -/

namespace Sys2Proof.Tests

open Sys2Proof Sys2Proof.Machine Sys2Proof.Claims

/-! ## Small states -/

/-- A memory of `size` bytes with the given bytes in it. -/
def memoryOf (size : Nat) (bytes : List (Nat × Byte)) : Memory :=
  bytes.foldl (fun m p => m.setByte p.1 p.2) (Memory.zeroed size)

/-- A running Cpu at `pc` with the given registers, and the word `w` stored at `pc`. -/
def start (size : Nat) (pc : Word) (w : Nat) (regs : List (RegIdx × Word)) (bytes : List (Nat × Byte)) : State :=
  ((regs.foldl (fun s p => setRegister s p.1 p.2) (newCpu (memoryOf size bytes))).setPc pc).withFetchWord 32 w

/-- After one step: one register, the pc and the run state. -/
def after (s : State) (r : RegIdx) : Option (Word × Word × RunState) :=
  match step s with
  | .next t => some (readReg t r, t.pc, t.run)
  | _ => none

/-- After one step: the four bytes from `a` up. -/
def bytesAfter (s : State) (a : Nat) : Option (List Byte) :=
  match step s with
  | .next t => some ((List.range 4).map fun i => t.mem.byteAt (a + i))
  | _ => none

/-! ## Well-formedness: a boundary term that each check takes, and an ill-formed one that it refuses -/

/-- imm_I and imm_S lie in -2048 .. 2047 (R80). -/
theorem smoke_fits12 :
    (Instr.addi 1 2 2047).wellFormed = true ∧ (Instr.addi 1 2 2048).wellFormed = false ∧
    (Instr.sw 1 2 (-2048)).wellFormed = true ∧ (Instr.sw 1 2 (-2049)).wellFormed = false := by decide

/-- imm_B lies in -4096 .. 4094 (R80). -/
theorem smoke_fitsB_range :
    (Instr.beq 1 2 4094).wellFormed = true ∧ (Instr.beq 1 2 4096).wellFormed = false ∧
    (Instr.bgeu 1 2 (-4096)).wellFormed = true ∧ (Instr.bgeu 1 2 (-4098)).wellFormed = false := by decide

/-- imm_B is even (R80). -/
theorem smoke_fitsB_even : (Instr.bne 1 2 8).wellFormed = true ∧ (Instr.bne 1 2 9).wellFormed = false := by decide

/-- imm_J lies in -1048576 .. 1048574 (R80). -/
theorem smoke_fitsJ_range :
    (Instr.jal 1 1048574).wellFormed = true ∧ (Instr.jal 1 1048576).wellFormed = false ∧
    (Instr.jal 1 (-1048576)).wellFormed = true ∧ (Instr.jal 1 (-1048578)).wellFormed = false := by decide

/-- imm_J is even (R80). -/
theorem smoke_fitsJ_even : (Instr.jal 1 6).wellFormed = true ∧ (Instr.jal 1 7).wellFormed = false := by decide

/-- The low twelve bits of imm_U are zero (R80). -/
theorem smoke_fitsU :
    (Instr.lui 1 0xFFFFF000#32).wellFormed = true ∧ (Instr.lui 1 0x12345001#32).wellFormed = false ∧
    (Instr.auipc 1 0x00000800#32).wellFormed = false := by decide

/-! ## Decoding: words written out field by field from the formats of 30_encoding.md -/

/-- R-type (R72): funct7, rs2 = 2, rs1 = 1, funct3, rd = 3, opcode. -/
theorem test_decode_register_register :
    decode (0b0000000#7 ++ 0b00010#5 ++ 0b00001#5 ++ 0b000#3 ++ 0b00011#5 ++ 0b0110011#7 : Word) = .ok (.add 3 1 2) ∧
    decode (0b0100000#7 ++ 0b00010#5 ++ 0b00001#5 ++ 0b000#3 ++ 0b00011#5 ++ 0b0110011#7 : Word) = .ok (.sub 3 1 2) ∧
    decode (0b0000000#7 ++ 0b00010#5 ++ 0b00001#5 ++ 0b001#3 ++ 0b00011#5 ++ 0b0110011#7 : Word) = .ok (.sll 3 1 2) ∧
    decode (0b0000000#7 ++ 0b00010#5 ++ 0b00001#5 ++ 0b010#3 ++ 0b00011#5 ++ 0b0110011#7 : Word) = .ok (.slt 3 1 2) ∧
    decode (0b0000000#7 ++ 0b00010#5 ++ 0b00001#5 ++ 0b011#3 ++ 0b00011#5 ++ 0b0110011#7 : Word) = .ok (.sltu 3 1 2) ∧
    decode (0b0000000#7 ++ 0b00010#5 ++ 0b00001#5 ++ 0b100#3 ++ 0b00011#5 ++ 0b0110011#7 : Word) = .ok (.xor 3 1 2) ∧
    decode (0b0000000#7 ++ 0b00010#5 ++ 0b00001#5 ++ 0b101#3 ++ 0b00011#5 ++ 0b0110011#7 : Word) = .ok (.srl 3 1 2) ∧
    decode (0b0100000#7 ++ 0b00010#5 ++ 0b00001#5 ++ 0b101#3 ++ 0b00011#5 ++ 0b0110011#7 : Word) = .ok (.sra 3 1 2) ∧
    decode (0b0000000#7 ++ 0b00010#5 ++ 0b00001#5 ++ 0b110#3 ++ 0b00011#5 ++ 0b0110011#7 : Word) = .ok (.or 3 1 2) ∧
    decode (0b0000000#7 ++ 0b00010#5 ++ 0b00001#5 ++ 0b111#3 ++ 0b00011#5 ++ 0b0110011#7 : Word) = .ok (.and 3 1 2) := by decide

/-- I-type (R73): imm[11:0] = 0xAAB = -1365, rs1 = 1, funct3, rd = 3, opcode. -/
theorem test_decode_register_immediate :
    decode (0b101010101011#12 ++ 0b00001#5 ++ 0b000#3 ++ 0b00011#5 ++ 0b0010011#7 : Word) = .ok (.addi 3 1 (-1365)) ∧
    decode (0b101010101011#12 ++ 0b00001#5 ++ 0b010#3 ++ 0b00011#5 ++ 0b0010011#7 : Word) = .ok (.slti 3 1 (-1365)) ∧
    decode (0b101010101011#12 ++ 0b00001#5 ++ 0b011#3 ++ 0b00011#5 ++ 0b0010011#7 : Word) = .ok (.sltiu 3 1 (-1365)) ∧
    decode (0b101010101011#12 ++ 0b00001#5 ++ 0b100#3 ++ 0b00011#5 ++ 0b0010011#7 : Word) = .ok (.xori 3 1 (-1365)) ∧
    decode (0b101010101011#12 ++ 0b00001#5 ++ 0b110#3 ++ 0b00011#5 ++ 0b0010011#7 : Word) = .ok (.ori 3 1 (-1365)) ∧
    decode (0b101010101011#12 ++ 0b00001#5 ++ 0b111#3 ++ 0b00011#5 ++ 0b0010011#7 : Word) = .ok (.andi 3 1 (-1365)) := by decide

/-- The I-type shift form (R78): funct7, shamt = 22, rs1 = 1, funct3, rd = 3, opcode. -/
theorem test_decode_shifts_by_immediate :
    decode (0b0000000#7 ++ 0b10110#5 ++ 0b00001#5 ++ 0b001#3 ++ 0b00011#5 ++ 0b0010011#7 : Word) = .ok (.slli 3 1 22#5) ∧
    decode (0b0000000#7 ++ 0b10110#5 ++ 0b00001#5 ++ 0b101#3 ++ 0b00011#5 ++ 0b0010011#7 : Word) = .ok (.srli 3 1 22#5) ∧
    decode (0b0100000#7 ++ 0b10110#5 ++ 0b00001#5 ++ 0b101#3 ++ 0b00011#5 ++ 0b0010011#7 : Word) = .ok (.srai 3 1 22#5) := by decide

/-- U-type (R76): imm[31:12] = 0xABCDE, rd = 3, opcode. -/
theorem test_decode_upper_immediates :
    decode (0b10101011110011011110#20 ++ 0b00011#5 ++ 0b0110111#7 : Word) = .ok (.lui 3 0xABCDE000#32) ∧
    decode (0b10101011110011011110#20 ++ 0b00011#5 ++ 0b0010111#7 : Word) = .ok (.auipc 3 0xABCDE000#32) := by decide

/-- I-type (R73) with opcode LOAD. -/
theorem test_decode_loads :
    decode (0b101010101011#12 ++ 0b00001#5 ++ 0b000#3 ++ 0b00011#5 ++ 0b0000011#7 : Word) = .ok (.lb 3 1 (-1365)) ∧
    decode (0b101010101011#12 ++ 0b00001#5 ++ 0b001#3 ++ 0b00011#5 ++ 0b0000011#7 : Word) = .ok (.lh 3 1 (-1365)) ∧
    decode (0b101010101011#12 ++ 0b00001#5 ++ 0b010#3 ++ 0b00011#5 ++ 0b0000011#7 : Word) = .ok (.lw 3 1 (-1365)) ∧
    decode (0b101010101011#12 ++ 0b00001#5 ++ 0b100#3 ++ 0b00011#5 ++ 0b0000011#7 : Word) = .ok (.lbu 3 1 (-1365)) ∧
    decode (0b101010101011#12 ++ 0b00001#5 ++ 0b101#3 ++ 0b00011#5 ++ 0b0000011#7 : Word) = .ok (.lhu 3 1 (-1365)) := by decide

/-- S-type (R74): imm[11:5] = 1010101, rs2 = 2, rs1 = 1, funct3, imm[4:0] = 01011, opcode. -/
theorem test_decode_stores :
    decode (0b1010101#7 ++ 0b00010#5 ++ 0b00001#5 ++ 0b000#3 ++ 0b01011#5 ++ 0b0100011#7 : Word) = .ok (.sb 1 2 (-1365)) ∧
    decode (0b1010101#7 ++ 0b00010#5 ++ 0b00001#5 ++ 0b001#3 ++ 0b01011#5 ++ 0b0100011#7 : Word) = .ok (.sh 1 2 (-1365)) ∧
    decode (0b1010101#7 ++ 0b00010#5 ++ 0b00001#5 ++ 0b010#3 ++ 0b01011#5 ++ 0b0100011#7 : Word) = .ok (.sw 1 2 (-1365)) := by decide

/-- J-type (R77): imm[20] = 1, imm[10:1] = 1100000101, imm[11] = 0, imm[19:12] = 00110101, rd = 3; and JALR (R73). -/
theorem test_decode_jumps :
    decode (0b1#1 ++ 0b1100000101#10 ++ 0b0#1 ++ 0b00110101#8 ++ 0b00011#5 ++ 0b1101111#7 : Word) = .ok (.jal 3 (-829942)) ∧
    decode (0b101010101011#12 ++ 0b00001#5 ++ 0b000#3 ++ 0b00011#5 ++ 0b1100111#7 : Word) = .ok (.jalr 3 1 (-1365)) := by decide

/-- B-type (R75): imm[12] = 1, imm[10:5] = 110011, rs2 = 2, rs1 = 1, funct3, imm[4:1] = 0101, imm[11] = 0, opcode. -/
theorem test_decode_branches :
    decode (0b1#1 ++ 0b110011#6 ++ 0b00010#5 ++ 0b00001#5 ++ 0b000#3 ++ 0b0101#4 ++ 0b0#1 ++ 0b1100011#7 : Word) = .ok (.beq 1 2 (-2454)) ∧
    decode (0b1#1 ++ 0b110011#6 ++ 0b00010#5 ++ 0b00001#5 ++ 0b001#3 ++ 0b0101#4 ++ 0b0#1 ++ 0b1100011#7 : Word) = .ok (.bne 1 2 (-2454)) ∧
    decode (0b1#1 ++ 0b110011#6 ++ 0b00010#5 ++ 0b00001#5 ++ 0b100#3 ++ 0b0101#4 ++ 0b0#1 ++ 0b1100011#7 : Word) = .ok (.blt 1 2 (-2454)) ∧
    decode (0b1#1 ++ 0b110011#6 ++ 0b00010#5 ++ 0b00001#5 ++ 0b101#3 ++ 0b0101#4 ++ 0b0#1 ++ 0b1100011#7 : Word) = .ok (.bge 1 2 (-2454)) ∧
    decode (0b1#1 ++ 0b110011#6 ++ 0b00010#5 ++ 0b00001#5 ++ 0b110#3 ++ 0b0101#4 ++ 0b0#1 ++ 0b1100011#7 : Word) = .ok (.bltu 1 2 (-2454)) ∧
    decode (0b1#1 ++ 0b110011#6 ++ 0b00010#5 ++ 0b00001#5 ++ 0b111#3 ++ 0b0101#4 ++ 0b0#1 ++ 0b1100011#7 : Word) = .ok (.bgeu 1 2 (-2454)) := by decide

/-- FENCE (R79): fm = 1000, pred = 0011, succ = 0110; rs1 = 9 and rd = 3 are ignored (R88). -/
theorem test_decode_fence :
    decode (0b1000#4 ++ 0b0011#4 ++ 0b0110#4 ++ 0b01001#5 ++ 0b000#3 ++ 0b00011#5 ++ 0b0001111#7 : Word) = .ok (.fence 8#4 3#4 6#4) := by decide
/-- Words that no row matches (95_test_vectors.md, section 3): they are unsupported (R87). -/
theorem test_decode_unsupported :
    [0x00000000#32, 0xFFFFFFFF#32, 0x00000001#32, 0x00000073#32, 0x30200073#32, 0xC0002573#32, 0x0000100F#32,
      0x02208033#32, 0x40001033#32, 0x00003003#32, 0x00003023#32, 0x00002063#32, 0x00001067#32, 0x02001013#32,
      0x40001013#32, 0x02005013#32, 0x0000000B#32, 0x0000006B#32, 0x0000002F#32].all
      (fun w => decode w == .error .unsupported) = true := by decide

/-- The table's numbering: bit 0 is the low bit of the byte at the lowest address (R43, R70). -/
theorem test_decodeTableWord :
    decodeTableWord 32 0x002081B3 = some (.add 3 1 2) ∧ decodeTableWord 32 0x00000073 = none := by decide

/-- Fewer than four bytes hold no instruction. -/
theorem test_decode_truncated : decodeBytes [0x13#8, 0x00#8, 0x00#8] = .error .truncated := by decide

/-! ## Register-register, one step -/

/-- `add x3, x1, x2` (95_test_vectors.md, V-RR-2). -/
theorem test_add_overflow_wraps :
    after (start 0x40 0x10 0x002081B3 [(1, 0x7FFFFFFF), (2, 0x1)] []) 3 = some (0x80000000, 0x14, .running) := by decide

/-- `add x0, x1, x2` (95_test_vectors.md, V-RR-4). -/
theorem test_add_to_x0_is_discarded :
    after (start 0x40 0x10 0x00208033 [(1, 0x5), (2, 0x7)] []) 0 = some (0x0, 0x14, .running) := by decide

/-- `sub x3, x1, x2` (95_test_vectors.md, V-RR-6). -/
theorem test_sub_is_minus_ten :
    after (start 0x40 0x10 0x402081B3 [(1, 0xA), (2, 0x14)] []) 3 = some (0xFFFFFFF6, 0x14, .running) := by decide

/-- `sub x3, x1, x2` (95_test_vectors.md, V-RR-7). -/
theorem test_sub_underflow_wraps :
    after (start 0x40 0x10 0x402081B3 [(1, 0x80000000), (2, 0x1)] []) 3 = some (0x7FFFFFFF, 0x14, .running) := by decide

/-- `sll x3, x1, x2` (95_test_vectors.md, V-RR-10). -/
theorem test_sll_by_32_is_by_0 :
    after (start 0x40 0x10 0x002091B3 [(1, 0x1), (2, 0x20)] []) 3 = some (0x1, 0x14, .running) := by decide

/-- `sll x3, x1, x2` (95_test_vectors.md, V-RR-11). -/
theorem test_sll_uses_low_five_bits :
    after (start 0x40 0x10 0x002091B3 [(1, 0x3), (2, 0xFFFFFFFF)] []) 3 = some (0x80000000, 0x14, .running) := by decide

/-- `slt x3, x1, x2` (95_test_vectors.md, V-RR-12). -/
theorem test_slt_is_signed :
    after (start 0x40 0x10 0x0020A1B3 [(1, 0xFFFFFFFF), (2, 0x1)] []) 3 = some (0x1, 0x14, .running) := by decide

/-- `slt x3, x1, x1` (95_test_vectors.md, V-RR-14). -/
theorem test_slt_of_equals_is_0 :
    after (start 0x40 0x10 0x0010A1B3 [(1, 0x5)] []) 3 = some (0x0, 0x14, .running) := by decide

/-- `sltu x3, x1, x2` (95_test_vectors.md, V-RR-15). -/
theorem test_sltu_is_unsigned :
    after (start 0x40 0x10 0x0020B1B3 [(1, 0xFFFFFFFF), (2, 0x1)] []) 3 = some (0x0, 0x14, .running) := by decide

/-- `sltu x3, x0, x2` (95_test_vectors.md, V-RR-16). -/
theorem test_sltu_snez :
    after (start 0x40 0x10 0x002031B3 [(2, 0x9)] []) 3 = some (0x1, 0x14, .running) := by decide

/-- `xor x3, x1, x2` (95_test_vectors.md, V-RR-18). -/
theorem test_xor_bits :
    after (start 0x40 0x10 0x0020C1B3 [(1, 0xFF00FF00), (2, 0xF0F0F0F)] []) 3 = some (0xF00FF00F, 0x14, .running) := by decide

/-- `srl x3, x1, x2` (95_test_vectors.md, V-RR-20). -/
theorem test_srl_shifts_in_zeros :
    after (start 0x40 0x10 0x0020D1B3 [(1, 0x80000000), (2, 0x1F)] []) 3 = some (0x1, 0x14, .running) := by decide

/-- `sra x3, x1, x2` (95_test_vectors.md, V-RR-22). -/
theorem test_sra_shifts_in_the_sign :
    after (start 0x40 0x10 0x4020D1B3 [(1, 0x80000000), (2, 0x1F)] []) 3 = some (0xFFFFFFFF, 0x14, .running) := by decide

/-- `sra x3, x1, x2` (95_test_vectors.md, V-RR-24). -/
theorem test_sra_uses_low_five_bits :
    after (start 0x40 0x10 0x4020D1B3 [(1, 0x80000000), (2, 0x21)] []) 3 = some (0xC0000000, 0x14, .running) := by decide

/-- `or x3, x1, x2` (95_test_vectors.md, V-RR-25). -/
theorem test_or_bits :
    after (start 0x40 0x10 0x0020E1B3 [(1, 0xF0F0F0F0), (2, 0xF0F0F0F)] []) 3 = some (0xFFFFFFFF, 0x14, .running) := by decide

/-- `and x3, x1, x2` (95_test_vectors.md, V-RR-26). -/
theorem test_and_bits :
    after (start 0x40 0x10 0x0020F1B3 [(1, 0xF0F0F0F0), (2, 0x3C3C3C3C)] []) 3 = some (0x30303030, 0x14, .running) := by decide

/-! ## Register-immediate, LUI, AUIPC, one step -/

/-- `addi x5, x1, 2047` (95_test_vectors.md, V-RI-2). -/
theorem test_addi_largest_immediate :
    after (start 0x40 0x10 0x7FF08293 [(1, 0x7FFFFFFF)] []) 5 = some (0x800007FE, 0x14, .running) := by decide

/-- `addi x5, x1, -2048` (95_test_vectors.md, V-RI-3). -/
theorem test_addi_smallest_immediate :
    after (start 0x40 0x10 0x80008293 [(1, 0x0)] []) 5 = some (0xFFFFF800, 0x14, .running) := by decide

/-- `slti x5, x1, -1` (95_test_vectors.md, V-RI-7). -/
theorem test_slti_negative :
    after (start 0x40 0x10 0xFFF0A293 [(1, 0xFFFFFFFE)] []) 5 = some (0x1, 0x14, .running) := by decide

/-- `slti x5, x1, -1` (95_test_vectors.md, V-RI-8). -/
theorem test_slti_of_equals_is_0 :
    after (start 0x40 0x10 0xFFF0A293 [(1, 0xFFFFFFFF)] []) 5 = some (0x0, 0x14, .running) := by decide

/-- `sltiu x5, x1, -1` (95_test_vectors.md, V-RI-9). -/
theorem test_sltiu_sign_extends_first :
    after (start 0x40 0x10 0xFFF0B293 [(1, 0x5)] []) 5 = some (0x1, 0x14, .running) := by decide

/-- `sltiu x5, x1, 1` (95_test_vectors.md, V-RI-11). -/
theorem test_sltiu_seqz :
    after (start 0x40 0x10 0x0010B293 [(1, 0x0)] []) 5 = some (0x1, 0x14, .running) := by decide

/-- `xori x5, x1, -1` (95_test_vectors.md, V-RI-13). -/
theorem test_xori_not :
    after (start 0x40 0x10 0xFFF0C293 [(1, 0xFFFF)] []) 5 = some (0xFFFF0000, 0x14, .running) := by decide

/-- `ori x5, x1, 0x0f0` (95_test_vectors.md, V-RI-14). -/
theorem test_ori_bits :
    after (start 0x40 0x10 0x0F00E293 [(1, 0x12345600)] []) 5 = some (0x123456F0, 0x14, .running) := by decide

/-- `ori x5, x0, -2048` (95_test_vectors.md, V-RI-15). -/
theorem test_ori_sign_extends :
    after (start 0x40 0x10 0x80006293 [] []) 5 = some (0xFFFFF800, 0x14, .running) := by decide

/-- `andi x5, x1, -256` (95_test_vectors.md, V-RI-17). -/
theorem test_andi_sign_extends :
    after (start 0x40 0x10 0xF000F293 [(1, 0x12345678)] []) 5 = some (0x12345600, 0x14, .running) := by decide

/-- `slli x5, x1, 4` (95_test_vectors.md, V-RI-18). -/
theorem test_slli_by_4 :
    after (start 0x40 0x10 0x00409293 [(1, 0xF)] []) 5 = some (0xF0, 0x14, .running) := by decide

/-- `slli x5, x1, 31` (95_test_vectors.md, V-RI-19). -/
theorem test_slli_by_31 :
    after (start 0x40 0x10 0x01F09293 [(1, 0x3)] []) 5 = some (0x80000000, 0x14, .running) := by decide

/-- `srli x5, x1, 4` (95_test_vectors.md, V-RI-21). -/
theorem test_srli_shifts_in_zeros :
    after (start 0x40 0x10 0x0040D293 [(1, 0x80000000)] []) 5 = some (0x8000000, 0x14, .running) := by decide

/-- `srai x5, x1, 4` (95_test_vectors.md, V-RI-23). -/
theorem test_srai_shifts_in_the_sign :
    after (start 0x40 0x10 0x4040D293 [(1, 0x80000000)] []) 5 = some (0xF8000000, 0x14, .running) := by decide

/-- `srai x5, x1, 31` (95_test_vectors.md, V-RI-24). -/
theorem test_srai_of_positive :
    after (start 0x40 0x10 0x41F0D293 [(1, 0x7FFFFFFF)] []) 5 = some (0x0, 0x14, .running) := by decide

/-- `lui x5, 0xfffff` (95_test_vectors.md, V-RI-26). -/
theorem test_lui_clears_the_low_bits :
    after (start 0x40 0x10 0xFFFFF2B7 [(5, 0x123)] []) 5 = some (0xFFFFF000, 0x14, .running) := by decide

/-- `auipc x5, 0x1` (95_test_vectors.md, V-RI-28). -/
theorem test_auipc_adds_its_own_pc :
    after (start 0x200 0x100 0x00001297 [] []) 5 = some (0x1100, 0x104, .running) := by decide

/-- `auipc x5, 0xfffff` (95_test_vectors.md, V-RI-29). -/
theorem test_auipc_wraps :
    after (start 0x200 0x100 0xFFFFF297 [] []) 5 = some (0xFFFFF100, 0x104, .running) := by decide

/-! ## Loads and stores, one step -/

/-- `lb x5, 0(x1)` (95_test_vectors.md, V-LS-1). -/
theorem test_lb_sign_extends :
    after (start 0x40 0x10 0x00008283 [(1, 0x20)] [(0x20, 0x80), (0x21, 0xFF), (0x22, 0x34), (0x23, 0x12)]) 5 = some (0xFFFFFF80, 0x14, .running) := by decide

/-- `lbu x5, 0(x1)` (95_test_vectors.md, V-LS-3). -/
theorem test_lbu_zero_extends :
    after (start 0x40 0x10 0x0000C283 [(1, 0x20)] [(0x20, 0x80), (0x21, 0xFF), (0x22, 0x34), (0x23, 0x12)]) 5 = some (0x80, 0x14, .running) := by decide

/-- `lh x5, 0(x1)` (95_test_vectors.md, V-LS-4). -/
theorem test_lh_sign_extends :
    after (start 0x40 0x10 0x00009283 [(1, 0x20)] [(0x20, 0x80), (0x21, 0xFF), (0x22, 0x34), (0x23, 0x12)]) 5 = some (0xFFFFFF80, 0x14, .running) := by decide

/-- `lh x5, 1(x1)` (95_test_vectors.md, V-LS-5). -/
theorem test_lh_misaligned :
    after (start 0x40 0x10 0x00109283 [(1, 0x20)] [(0x20, 0x80), (0x21, 0xFF), (0x22, 0x34), (0x23, 0x12)]) 5 = some (0x34FF, 0x14, .running) := by decide

/-- `lhu x5, 0(x1)` (95_test_vectors.md, V-LS-6). -/
theorem test_lhu_zero_extends :
    after (start 0x40 0x10 0x0000D283 [(1, 0x20)] [(0x20, 0x80), (0x21, 0xFF), (0x22, 0x34), (0x23, 0x12)]) 5 = some (0xFF80, 0x14, .running) := by decide

/-- `lw x5, 1(x1)` (95_test_vectors.md, V-LS-8). -/
theorem test_lw_misaligned :
    after (start 0x40 0x10 0x0010A283 [(1, 0x20)] [(0x20, 0x80), (0x21, 0xFF), (0x22, 0x34), (0x23, 0x12)]) 5 = some (0x1234FF, 0x14, .running) := by decide

/-- `lb x5, 0(x1)` (95_test_vectors.md, V-LS-13). -/
theorem test_lb_out_of_bounds :
    after (start 0x40 0x10 0x00008283 [(1, 0x40)] []) 5 = some (0x0, 0x10, .faulted .outOfBounds) := by decide

/-- `lbu x5, 1(x1)` (95_test_vectors.md, V-LS-14). -/
theorem test_lbu_address_wraps :
    after (start 0x40 0x10 0x0010C283 [(1, 0xFFFFFFFF)] [(0x0, 0x5A)]) 5 = some (0x5A, 0x14, .running) := by decide

/-- `lw x0, 0(x1)` (95_test_vectors.md, V-LS-17). -/
theorem test_lw_to_x0_still_faults :
    after (start 0x40 0x10 0x0000A003 [(1, 0x40)] []) 0 = some (0x0, 0x10, .faulted .outOfBounds) := by decide

/-- `sb x2, 0(x1)` (95_test_vectors.md, V-LS-19). -/
theorem test_sb_writes_one_byte :
    bytesAfter (start 0x40 0x10 0x00208023 [(1, 0x20), (2, 0x12345678)] [(0x20, 0x80), (0x21, 0xFF), (0x22, 0x34), (0x23, 0x12)]) 0x20 = some [0x78, 0xFF, 0x34, 0x12] := by decide

/-- `sh x2, 0(x1)` (95_test_vectors.md, V-LS-20). -/
theorem test_sh_is_little_endian :
    bytesAfter (start 0x40 0x10 0x00209023 [(1, 0x20), (2, 0x12345678)] [(0x20, 0x80), (0x21, 0xFF), (0x22, 0x34), (0x23, 0x12)]) 0x20 = some [0x78, 0x56, 0x34, 0x12] := by decide

/-- `sh x2, 3(x1)` (95_test_vectors.md, V-LS-21). -/
theorem test_sh_misaligned :
    bytesAfter (start 0x40 0x10 0x002091A3 [(1, 0x20), (2, 0xBEEF)] [(0x20, 0x80), (0x21, 0xFF), (0x22, 0x34), (0x23, 0x12)]) 0x22 = some [0x34, 0xEF, 0xBE, 0x0] := by decide

/-- `sw x2, -4(x1)` (95_test_vectors.md, V-LS-22). -/
theorem test_sw_negative_offset :
    bytesAfter (start 0x40 0x10 0xFE20AE23 [(1, 0x24), (2, 0x12345678)] []) 0x20 = some [0x78, 0x56, 0x34, 0x12] := by decide

/-- `sw x2, 0(x1)` (95_test_vectors.md, V-LS-24). -/
theorem test_sw_last_word :
    bytesAfter (start 0x40 0x10 0x0020A023 [(1, 0x3C), (2, 0xCAFEF00D)] []) 0x3C = some [0xD, 0xF0, 0xFE, 0xCA] := by decide

/-! ## Control transfer, one step -/

/-- `jal x1, 16` (95_test_vectors.md, V-CT-1). -/
theorem test_jal_links :
    after (start 0x40 0x0 0x010000EF [] []) 1 = some (0x4, 0x10, .running) := by decide

/-- `jal x1, 6` (95_test_vectors.md, V-CT-4). -/
theorem test_jal_misaligned_links_nothing :
    after (start 0x40 0x10 0x006000EF [(1, 0x77)] []) 1 = some (0x77, 0x10, .faulted .misalignedAccess) := by decide

/-- `jalr x1, 0(x5)` (95_test_vectors.md, V-CT-6). -/
theorem test_jalr_clears_bit_0 :
    after (start 0x200 0x20 0x000280E7 [(5, 0x101)] []) 1 = some (0x24, 0x100, .running) := by decide

/-- `jalr x1, 4(x1)` (95_test_vectors.md, V-CT-9). -/
theorem test_jalr_reads_before_it_links :
    after (start 0x40 0x10 0x004080E7 [(1, 0x8)] []) 1 = some (0x14, 0xC, .running) := by decide

/-- `beq x1, x2, 8` (95_test_vectors.md, V-CT-12). -/
theorem test_beq_taken :
    after (start 0x40 0x10 0x00208463 [(1, 0x7), (2, 0x7)] []) 5 = some (0x0, 0x18, .running) := by decide

/-- `beq x0, x0, 6` (95_test_vectors.md, V-CT-14). -/
theorem test_beq_taken_misaligned :
    after (start 0x40 0x10 0x00000363 [] []) 5 = some (0x0, 0x10, .faulted .misalignedAccess) := by decide

/-- `bne x0, x0, 6` (95_test_vectors.md, V-CT-15). -/
theorem test_bne_not_taken_is_not_checked :
    after (start 0x40 0x10 0x00001363 [] []) 5 = some (0x0, 0x14, .running) := by decide

/-- `bne x1, x2, -16` (95_test_vectors.md, V-CT-17). -/
theorem test_bne_backward :
    after (start 0x40 0x10 0xFE2098E3 [(1, 0x1), (2, 0x2)] []) 5 = some (0x0, 0x0, .running) := by decide

/-- `blt x1, x2, 8` (95_test_vectors.md, V-CT-18). -/
theorem test_blt_is_signed :
    after (start 0x40 0x10 0x0020C463 [(1, 0xFFFFFFFF), (2, 0x1)] []) 5 = some (0x0, 0x18, .running) := by decide

/-- `blt x1, x1, 8` (95_test_vectors.md, V-CT-19). -/
theorem test_blt_of_equals :
    after (start 0x40 0x10 0x0010C463 [(1, 0x3)] []) 5 = some (0x0, 0x14, .running) := by decide

/-- `bge x1, x2, 8` (95_test_vectors.md, V-CT-20). -/
theorem test_bge_is_signed :
    after (start 0x40 0x10 0x0020D463 [(1, 0xFFFFFFFF), (2, 0x1)] []) 5 = some (0x0, 0x14, .running) := by decide

/-- `bge x1, x1, 8` (95_test_vectors.md, V-CT-21). -/
theorem test_bge_of_equals :
    after (start 0x40 0x10 0x0010D463 [(1, 0x3)] []) 5 = some (0x0, 0x18, .running) := by decide

/-- `bltu x1, x2, 8` (95_test_vectors.md, V-CT-22). -/
theorem test_bltu_is_unsigned :
    after (start 0x40 0x10 0x0020E463 [(1, 0xFFFFFFFF), (2, 0x1)] []) 5 = some (0x0, 0x14, .running) := by decide

/-- `bltu x0, x2, 8` (95_test_vectors.md, V-CT-23). -/
theorem test_bltu_taken :
    after (start 0x40 0x10 0x00206463 [(2, 0x1)] []) 5 = some (0x0, 0x18, .running) := by decide

/-- `bgeu x1, x2, 8` (95_test_vectors.md, V-CT-24). -/
theorem test_bgeu_is_unsigned :
    after (start 0x40 0x10 0x0020F463 [(1, 0xFFFFFFFF), (2, 0x1)] []) 5 = some (0x0, 0x18, .running) := by decide

/-- `bgeu x1, x2, 8` (95_test_vectors.md, V-CT-25). -/
theorem test_bgeu_not_taken :
    after (start 0x40 0x10 0x0020F463 [(1, 0x0), (2, 0x1)] []) 5 = some (0x0, 0x14, .running) := by decide

/-! ## FENCE, one step -/

/-- `.word 0x8330000F` (95_test_vectors.md, V-FE-3). -/
theorem test_fence_tso_is_a_nop :
    after (start 0x40 0x10 0x8330000F [] []) 5 = some (0x0, 0x14, .running) := by decide

/-- `.word 0x0000028F` (95_test_vectors.md, V-FE-5). -/
theorem test_fence_does_not_write_rd :
    after (start 0x40 0x10 0x0000028F [(5, 0x9)] []) 5 = some (0x9, 0x14, .running) := by decide
/-! ## Faults, reset and the host -/

/-- Alignment is checked before the bounds (95_test_vectors.md, S4). -/
theorem test_fetch_misaligned :
    after (start 0x40 0x42 0 [] []) 0 = some (0, 0x42, .faulted .misalignedAccess) := by decide

/-- The word at 0x3C needs the bytes 0x3C .. 0x3F of 62 (95_test_vectors.md, S2). -/
theorem test_fetch_out_of_bounds :
    after (start 62 0x3C 0 [] []) 0 = some (0, 0x3C, .faulted .outOfBounds) := by decide

/-- FENCE.I is unsupported (95_test_vectors.md, V-FE-6; R201). -/
theorem test_fetch_illegal :
    after (start 0x40 0x10 0x0000100F [] []) 0 = some (0, 0x10, .faulted .illegalInstruction) := by decide

/-- pc + 4 wraps (95_test_vectors.md, S9). -/
theorem test_pc_wraps : after (start (2 ^ 32) 0xFFFFFFFC 0x00000013 [] []) 0 = some (0, 0, .running) := by decide

/-- A store out of bounds writes no byte (95_test_vectors.md, V-LS-23). -/
theorem test_sw_out_of_bounds :
    bytesAfter (start 0x40 0x10 0x0020A023 [(1, 0x3E), (2, 0x12345678)] []) 0x3C = some [0, 0, 0, 0] := by decide

/-- The end-to-end scenario of R110 (95_test_vectors.md, E8), by the host's own actions from a new Cpu. -/
theorem test_end_to_end :
    let s := performAll [.store 0 0x002081B3 .word, .setRegister 1 5, .setRegister 2 7, .step] (newCpu (Memory.zeroed 64))
    readReg s 3 = 12 ∧ s.pc = 4 ∧ s.run = .running := by decide

/-- Reset clears the fault (95_test_vectors.md, S6 and S7). -/
theorem test_reset_after_fault :
    (performAll [.step, .step] (newCpu (Memory.zeroed 64))).run = .faulted .illegalInstruction ∧
    performAll [.step, .step, .reset] (newCpu (Memory.zeroed 64)) = newCpu (Memory.zeroed 64) := by decide

/-- With nothing loaded the first step faults: the word at 0 is 0 (95_test_vectors.md, E7; log entry 3). -/
theorem test_reset_runs_nothing : after State.reset 0 = some (0, 0, .faulted .illegalInstruction) := by decide

/-- `withFetchWord` gives the reset state an instruction, and the very next step runs it. -/
theorem test_reset_with_fetch_word :
    after (State.reset.withFetchWord 32 0xFFF00093) 1 = some (0xFFFFFFFF, 4, .running) := by decide

/-! ## Witnesses: a state and operands that meet the hypotheses of each obligation -/

/-- x1 = 0x20, x2 = 7, pc = 0x10 in 64 bytes; `add x3, x1, x2` is at pc. -/
def sample : State := start 0x40 0x10 0x002081B3 [(1, 0x20), (2, 7)] []

theorem sample_wf : sample.mem.wf := by decide
theorem sample_inv : sample.Inv := ⟨by decide, by decide, by decide⟩
theorem sample_fetches : Fetches sample 0x002081B3#32 := ⟨rfl, by decide, by decide, by decide⟩

theorem witness_ZeroRegisterIsHardwired : (1 : RegIdx) ≠ 0 ∧ (31 : RegIdx) ≠ 0 := by decide

/-- Well-formed instructions of every format, at the ends of the immediates' ranges. -/
theorem witness_DecodeInvertsEncode :
    [Instr.lui 31 0xFFFFF000#32, .jal 31 (-1048576), .jal 0 1048574, .jalr 1 2 (-2048), .beq 1 2 (-4096), .bgeu 1 2 4094,
      .lw 5 6 2047, .sw 1 2 (-2048), .addi 1 2 2047, .srai 1 2 31#5, .add 31 31 31, .fence 15#4 15#4 15#4].all
      (fun i => i.wellFormed) = true := by decide

/-- A word that decodes, and a FENCE word whose ignored fields are not 0. -/
theorem witness_EncodeInvertsDecode :
    decode 0x40B555B3#32 = .ok (.sra 11 10 11) ∧ opcode 0x40B555B3#32 ≠ 0b0001111#7 ∧
    decode 0x0FF4828F#32 = .ok (.fence 0#4 15#4 15#4) ∧ opcode 0x0FF4828F#32 = 0b0001111#7 := by decide

theorem witness_DecodedInstructionsAreWellFormed : decode 0x80000FE3#32 = .ok (.beq 0 0 (-2018)) := by decide

/-- For each clause of R87 a word that meets it. -/
theorem witness_UnsupportedWordsFault :
    (0x00004502#32).extractLsb' 0 2 ≠ 0b11#2 ∧
    opcode 0x00000073#32 ∉
      [0x03#7, 0x0F#7, 0x13#7, 0x17#7, 0x23#7, 0x33#7, 0x37#7, 0x63#7, 0x67#7, 0x6F#7] ∧
    (opcode 0x0000100F#32 = 0x0F#7 ∧ funct3 0x0000100F#32 ≠ 0#3) ∧
    (opcode 0x00001067#32 = 0x67#7 ∧ funct3 0x00001067#32 ≠ 0#3) ∧
    (opcode 0x00002063#32 = 0x63#7 ∧ funct3 0x00002063#32 ∈ [2#3, 3#3]) ∧
    (opcode 0x00003003#32 = 0x03#7 ∧ funct3 0x00003003#32 ∈ [3#3, 6#3, 7#3]) ∧
    (opcode 0x00003023#32 = 0x23#7 ∧ funct3 0x00003023#32 ∈ [3#3, 4#3, 5#3, 6#3, 7#3]) ∧
    (opcode 0x02001013#32 = 0x13#7 ∧ funct3 0x02001013#32 = 1#3 ∧ funct7 0x02001013#32 ≠ 0#7) ∧
    (opcode 0x02005013#32 = 0x13#7 ∧ funct3 0x02005013#32 = 5#3 ∧ funct7 0x02005013#32 ∉ [0x00#7, 0x20#7]) ∧
    (opcode 0x02208033#32 = 0x33#7 ∧ funct7 0x02208033#32 ∉ [0x00#7, 0x20#7]) ∧
    (opcode 0x40001033#32 = 0x33#7 ∧ funct7 0x40001033#32 = 0x20#7 ∧ funct3 0x40001033#32 ∉ [0#3, 5#3]) := by decide

/-- A fetched word that no row matches. -/
theorem witness_UnsupportedWordsFault_step :
    Fetches (start 0x40 0 0x00000073 [] []) 0x00000073#32 ∧ decode 0x00000073#32 = .error .unsupported ∧
    ∀ p ∈ tableRows, p.1.holds 0x00000073#32 = false :=
  ⟨⟨rfl, by decide, by decide, by decide⟩, by decide, by decide⟩

/-- Every `EncodedAs` clause has a word: the match itself. -/
theorem witness_EncodedAs : ∀ p ∈ tableRows, p.1.pattern &&& p.1.mask = p.1.pattern := by decide

/-- ShiftsByImmediate: words with another inst[31:25]. -/
theorem witness_ShiftsByImmediate :
    (opcode 0x40001013#32 = 0x13#7 ∧ funct3 0x40001013#32 = 1#3 ∧ funct7 0x40001013#32 ≠ 0x00#7) ∧
    (opcode 0x02005013#32 = 0x13#7 ∧ funct3 0x02005013#32 = 5#3 ∧ funct7 0x02005013#32 ≠ 0x00#7 ∧
      funct7 0x02005013#32 ≠ 0x20#7) := by decide

/-- The last access in bounds and the first out of bounds, for each width, from x1 = 0x20 in 64 bytes. -/
theorem witness_LoadsReadBytes :
    (ea sample 1 31 + 1 ≤ sample.mem.size ∧ sample.mem.size < ea sample 1 32 + 1) ∧
    (ea sample 1 30 + 2 ≤ sample.mem.size ∧ sample.mem.size < ea sample 1 31 + 2) ∧
    (ea sample 1 28 + 4 ≤ sample.mem.size ∧ sample.mem.size < ea sample 1 29 + 4) := by decide

/-- The same accesses, in a memory in canonical form. -/
theorem witness_StoresWriteBytes :
    sample.mem.wf ∧
    (ea sample 1 31 + 1 ≤ sample.mem.size ∧ sample.mem.size < ea sample 1 32 + 1) ∧
    (ea sample 1 30 + 2 ≤ sample.mem.size ∧ sample.mem.size < ea sample 1 31 + 2) ∧
    (ea sample 1 28 + 4 ≤ sample.mem.size ∧ sample.mem.size < ea sample 1 29 + 4) :=
  ⟨sample_wf, witness_LoadsReadBytes⟩

/-- An aligned and a misaligned target, the misaligned one by an even offset that is 2 modulo 4. -/
theorem witness_JalLinksAndJumps :
    aligned (sample.pc + 16#32) ∧ ¬ aligned (sample.pc + 6#32) ∧
    aligned sample.pc ∧ (6#32).toNat % 2 = 0 ∧ (6#32).toNat % 4 = 2 := by decide

/-- The base x1 = 0x20 with offset 1 (bit 0 cleared) and with offset 2 (bit 1 set). -/
theorem witness_JalrLinksAndJumps :
    (BitVec.ofNat 32 (((readReg sample 1).toNat + (1#32).toNat) % 2 ^ 32 / 2 * 2)).getLsbD 1 = false ∧
    (BitVec.ofNat 32 (((readReg sample 1).toNat + (2#32).toNat) % 2 ^ 32 / 2 * 2)).getLsbD 1 = true := by decide

/-- x1 = 0x20 and x2 = 7: each condition holds for one order of the registers and fails for another; one target is
aligned, one is not. -/
theorem witness_BranchesCompareAndJump :
    (readReg sample 1 = readReg sample 1 ∧ ¬ readReg sample 1 = readReg sample 2) ∧
    (readReg sample 1 ≠ readReg sample 2 ∧ ¬ readReg sample 1 ≠ readReg sample 1) ∧
    ((readReg sample 2).toInt < (readReg sample 1).toInt ∧ ¬ (readReg sample 1).toInt < (readReg sample 1).toInt) ∧
    ((readReg sample 1).toInt ≤ (readReg sample 1).toInt ∧ ¬ (readReg sample 1).toInt ≤ (readReg sample 2).toInt) ∧
    ((readReg sample 2).toNat < (readReg sample 1).toNat ∧ ¬ (readReg sample 1).toNat < (readReg sample 1).toNat) ∧
    ((readReg sample 1).toNat ≤ (readReg sample 1).toNat ∧ ¬ (readReg sample 1).toNat ≤ (readReg sample 2).toNat) ∧
    aligned (sample.pc + 8#32) ∧ ¬ aligned (sample.pc + 6#32) := by decide

/-- The last addresses in bounds and the first out of bounds. -/
theorem witness_MemReadIsExact :
    ((63#32).toNat + Width.byte.bytes ≤ 64 ∧ 64 < (64#32).toNat + Width.byte.bytes) ∧
    ((62#32).toNat + Width.half.bytes ≤ 64 ∧ 64 < (63#32).toNat + Width.half.bytes) ∧
    ((60#32).toNat + Width.word.bytes ≤ 64 ∧ 64 < (61#32).toNat + Width.word.bytes) := by decide

/-- The same in a memory in canonical form. -/
theorem witness_MemWriteIsExact :
    (Memory.zeroed 64).wf ∧ (60#32).toNat + Width.word.bytes ≤ (Memory.zeroed 64).size ∧
    (Memory.zeroed 64).size < (61#32).toNat + Width.word.bytes := by decide

theorem witness_StoreThenLoadReturnsValue :
    (Memory.zeroed 64).wf ∧ ∃ m', hostStore (Memory.zeroed 64) 62#32 0xBEEF#32 .half = .ok m' :=
  ⟨by decide, _, rfl⟩

/-- The smallest and the largest size. -/
theorem witness_NewMemoryIsZeroed : (1 ≤ 1 ∧ 1 ≤ 2 ^ 32) ∧ (1 ≤ 2 ^ 32 ∧ 2 ^ 32 ≤ 2 ^ 32) := by decide

/-- `sw x2, -12(x1)` from pc = 0x10 stores at 0x14. -/
theorem witness_FetchSeesTheStore :
    sample.mem.wf ∧ aligned sample.pc ∧ effectiveAddress sample 1 (-12) = sample.pc + 4#32 ∧
    ea sample 1 (-12) + 4 ≤ sample.mem.size := by decide

theorem witness_StepRunsDecodedInstruction :
    Fetches sample 0x002081B3#32 ∧ decode 0x002081B3#32 = .ok (.add 3 1 2) := ⟨sample_fetches, by decide⟩

/-- One state for each fault of R218, in its order; the first out-of-bounds pc of 64 bytes is 64. -/
theorem witness_FaultsComeInOrder :
    (sample.setRun (.faulted .outOfBounds)).run = .faulted .outOfBounds ∧
    ((sample.setPc 0x12#32).run = .running ∧ ¬ aligned (sample.setPc 0x12#32).pc) ∧
    ((sample.setPc 0x40#32).run = .running ∧ aligned (sample.setPc 0x40#32).pc ∧
      (sample.setPc 0x40#32).mem.size < (sample.setPc 0x40#32).pc.toNat + 4) ∧
    (Fetches (sample.setPc 0x3C#32) 0#32 ∧ decode 0#32 = .error .unsupported) ∧
    Fetches sample 0x002081B3#32 ∧ decode 0x002081B3#32 = .ok (.add 3 1 2) :=
  ⟨rfl, ⟨rfl, by decide⟩, ⟨rfl, by decide, by decide⟩, ⟨⟨rfl, by decide, by decide, by decide⟩, by decide⟩,
    sample_fetches, by decide⟩

/-- A step that reaches each side of each equivalence: a fault of each kind at fetch or decode, a load past the end, a
misaligned jump, and a step that faults in no way. -/
theorem witness_FaultsAriseOnlyThere :
    (∃ t, step (sample.setPc 0x40#32) = .next t ∧ t.run = .faulted .outOfBounds) ∧
    (∃ t, step (start 0x40 0x10 0x0000A283 [(1, 61)] []) = .next t ∧ t.run = .faulted .outOfBounds) ∧
    (∃ t, step (sample.setPc 0#32) = .next t ∧ t.run = .faulted .illegalInstruction) ∧
    (∃ t, step (sample.setPc 0x12#32) = .next t ∧ t.run = .faulted .misalignedAccess) ∧
    (∃ t, step (start 0x40 0x10 0x006000EF [] []) = .next t ∧ t.run = .faulted .misalignedAccess) ∧
    ∃ t, step sample = .next t ∧ t.run = .running :=
  ⟨⟨_, rfl, rfl⟩, ⟨_, rfl, rfl⟩, ⟨_, rfl, rfl⟩, ⟨_, rfl, rfl⟩, ⟨_, rfl, rfl⟩, _, rfl, rfl⟩

theorem witness_FaultedCpuReportsAgain :
    (sample.setRun (.faulted .misalignedAccess)).run = .faulted .misalignedAccess := rfl

theorem witness_FaultEntryChangesOnlyRun :
    ∃ t, (sample.setPc 0#32).run = .running ∧ step (sample.setPc 0#32) = .next t ∧
      t.run = .faulted .illegalInstruction := ⟨_, rfl, rfl, rfl⟩

theorem witness_EveryStepReturns : sample.run = .running := rfl

theorem witness_OkStepRetiresOneInstruction :
    (∃ t, sample.run = .running ∧ step sample = .next t ∧ t.run = .running) ∧ ∃ t, cpuStep sample = some (t, .ok) :=
  ⟨⟨_, rfl, rfl, rfl⟩, _, rfl⟩

/-- An instruction that is no control transfer, and one that is. -/
theorem witness_PcAdvancesByFour :
    sample.run = .running ∧
    (∃ t, exec (.add 3 1 2) sample = .next t ∧ t.run = .running) ∧ isTransfer (.add 3 1 2) = false ∧
    (∃ t, exec (.jal 3 8) sample = .next t ∧ t.run = .running) ∧ isTransfer (.jal 3 8) = true :=
  ⟨rfl, ⟨_, rfl, rfl⟩, rfl, ⟨_, rfl, rfl⟩, rfl⟩

theorem witness_InstructionsStayInTheirFrame :
    (∃ t, exec (.add 3 1 2) sample = .next t) ∧ isStore (.add 3 1 2) = false ∧ destination (.add 3 1 2) ≠ some 4 :=
  ⟨⟨_, rfl⟩, rfl, by decide⟩

/-- A step of an ADD, and a step of a store: the two cases. -/
theorem witness_StepChangesOnlyStoredBytes :
    sample.mem.wf ∧ (∃ t, step sample = .next t) ∧
    (start 0x40 0x10 0x0020A023 [(1, 0x20), (2, 7)] []).mem.wf ∧
    ∃ t, step (start 0x40 0x10 0x0020A023 [(1, 0x20), (2, 7)] []) = .next t ∧ t.mem.byteAt 0x20 = 7#8 :=
  ⟨sample_wf, ⟨_, rfl⟩, by decide, _, rfl, by decide⟩

theorem witness_StepKeepsInvariant : sample.Inv ∧ ∃ t, step sample = .next t := ⟨sample_inv, _, rfl⟩

theorem witness_EveryRunStaysLegal : ∃ m, newMemory 64 = .ok m := ⟨_, rfl⟩

theorem witness_MemorySizeIsFixed :
    (∃ t, step sample = .next t) ∧ (∃ t, exec (.add 3 1 2) sample = .next t ∧ isStore (.add 3 1 2) = false) ∧
    (∀ addr v n, HostAction.reset ≠ .store addr v n) ∧ HostAction.reset ≠ .step :=
  ⟨⟨_, rfl⟩, ⟨_, rfl, rfl⟩, fun _ _ _ => nofun, nofun⟩

/-- The last word in bounds and the first out of bounds, loaded and stored; a step; an action that is neither reset nor
step. -/
theorem witness_HostReadsAndHook :
    (∃ v, hostLoad sample.mem 60#32 .word .signed = .ok v) ∧ hostLoad sample.mem 61#32 .word .signed = .error .outOfBounds ∧
    (∃ m, hostStore sample.mem 60#32 1#32 .word = .ok m) ∧ hostStore sample.mem 61#32 1#32 .word = .error .outOfBounds ∧
    (∃ t r, cpuStep sample = some (t, r)) ∧ HostAction.pc ≠ .reset ∧ HostAction.pc ≠ .step :=
  ⟨⟨_, rfl⟩, rfl, ⟨_, rfl⟩, rfl, ⟨_, _, rfl⟩, nofun, nofun⟩

/-- The smallest and the largest size. -/
theorem witness_NewMemoryIsCanonical :
    (∃ m, newMemory 1 = .ok m) ∧ ∃ m, newMemory (2 ^ 32) = .ok m := ⟨⟨_, rfl⟩, _, rfl⟩

/-- The ADD at 0x10 is Ok; the word 0 after it is illegal. -/
theorem witness_RunsEndOnce : ∃ t, EndsIn sample 1 .illegalInstruction t := ⟨_, _, rfl, rfl⟩

/-- The last pc in bounds of 64 bytes. -/
theorem witness_LoadedWordIsFetched :
    (sample.setPc 0x3C#32).mem.wf ∧ aligned (sample.setPc 0x3C#32).pc ∧
    (sample.setPc 0x3C#32).pc.toNat + 4 ≤ (sample.setPc 0x3C#32).mem.size := by decide

end Sys2Proof.Tests
end

section
/-! PROOF. The registers (R21, R22). -/

namespace Sys2Proof.Claims

open Sys2Proof Sys2Proof.Machine

/-- R22: the discarded write. -/
@[simp] theorem writeReg_zero (s : State) (v : Word) : writeReg s 0 v = s := rfl

/-- The frame of a register write, x0 included. -/
theorem writesReg_writeReg (s : State) (i : RegIdx) (v : Word) : WritesReg s (writeReg s i v) i v s.pc := by
  have value : readReg (writeReg s i v) i = if i = 0 then 0#32 else v := by
    by_cases hi : i = 0 <;> simp [readReg_writeReg, hi]
  have others : ∀ r, r ≠ i → readReg (writeReg s i v) r = readReg s r := fun r hr => by
    simp [readReg_writeReg, hr]
  have memory : SameMemory s (writeReg s i v) := by simp [SameMemory]
  exact ⟨value, others, writeReg_pc s i v, memory, writeReg_run s i v⟩

/-- Settles O1 by the register laws: a read of x0, a write of x0, and the frame of a write. -/
theorem zeroRegisterIsHardwired : Obligations.ZeroRegisterIsHardwired :=
  ⟨readReg_zero, writeReg_zero, fun s i v _ => writesReg_writeReg s i v⟩

end Sys2Proof.Claims
end

section
/-! PROOF. The memory primitives and the host's access to them (R41, R44, R45, R47, R48). -/

namespace Sys2Proof.Claims

open Sys2Proof Sys2Proof.Machine

/-! ## The little-endian value (R43) -/

/-- A byte below a value: the low digit of a base-256 number. -/
theorem toNat_append_byte {k : Nat} (hi : BitVec k) (lo : Byte) : (hi ++ lo).toNat = lo.toNat + 256 * hi.toNat := by
  rw [BitVec.toNat_append, ← Nat.shiftLeft_add_eq_or_of_lt lo.isLt, Nat.shiftLeft_eq]
  omega

/-- The concatenated bytes of an access are its little-endian number. -/
theorem gather_toNat (m : Memory) (a : Nat) (n : Width) : (m.gather a n).toNat = bytesValue m a n.bytes := by
  cases n with
  | byte => simp [Memory.gather, Width.bytes, bytesValue]
  | half => simp [Memory.gather, Width.bytes, bytesValue, toNat_append_byte]
  | word => simp [Memory.gather, Width.bytes, bytesValue, toNat_append_byte]

theorem width_bits_eq (n : Width) : n.bits = 8 * n.bytes := by cases n <;> rfl

/-! ## The extensions (R14) -/

theorem extend_unsigned {n : Nat} (v : BitVec n) : extend .unsigned v = BitVec.ofNat 32 v.toNat :=
  (BitVec.ofNat_toNat 32 v).symm

theorem extend_signed {n : Nat} (v : BitVec n) : extend .signed v = BitVec.ofInt 32 (Int.bmod v.toNat (2 ^ n)) :=
  congrArg (BitVec.ofInt 32) (BitVec.toInt_eq_toNat_bmod v)

/-- A value that already has 32 bits is not changed by either extension. -/
@[simp] theorem extend_word (x : Extension) (v : Word) : extend x v = v := by
  cases x with
  | signed => exact BitVec.signExtend_eq v
  | unsigned => exact BitVec.setWidth_eq v

/-! ## The host's load (R47) -/

theorem hostLoad_of_inBounds {m : Memory} {a : Word} {n : Width} (x : Extension) (h : inBounds m a n) :
    hostLoad m a n x = .ok (extend x (m.gather a.toNat n)) := by
  rw [hostLoad, memRead_of_inBounds h]

theorem hostLoad_of_not_inBounds {m : Memory} {a : Word} {n : Width} (x : Extension) (h : ¬ inBounds m a n) :
    hostLoad m a n x = .error .outOfBounds := by
  rw [hostLoad, memRead_of_not_inBounds h]

theorem hostLoad_word (m : Memory) (a : Word) (x y : Extension) : hostLoad m a .word x = hostLoad m a .word y := by
  by_cases h : inBounds m a .word
  · simp only [hostLoad_of_inBounds _ h, extend_word]
  · simp only [hostLoad_of_not_inBounds _ h]

/-! ## The obligations -/

/-- Settles O25 by the little-endian value of the gathered bytes. -/
theorem memReadIsExact : Obligations.MemReadIsExact := fun m addr n =>
  ⟨fun h => ⟨m.gather addr.toNat n, memRead_of_inBounds h, gather_toNat m addr.toNat n⟩,
    fun h => memRead_of_not_inBounds (Nat.not_le.mpr h)⟩

/-- Settles O26 by `byteAt_scatter`: each byte is read back inside the access or outside it. -/
theorem memWriteIsExact : Obligations.MemWriteIsExact := by
  intro m addr n v hm
  refine ⟨fun h => ?_, fun h => memWrite_of_not_inBounds v (Nat.not_le.mpr h), rfl⟩
  have bytes := Memory.byteAt_scatter hm v h
  refine ⟨_, memWrite_of_inBounds v h, Memory.scatter_size .., fun i hi => ?_, fun b hb => ?_⟩
  · rw [bytes, if_pos (by omega), Nat.add_sub_cancel_left]
  · rw [bytes, if_neg (by omega)]

/-- Settles O27: the two extensions of the value that `MemRead` gathers. -/
theorem hostLoadExtends : Obligations.HostLoadExtends := by
  intro m addr n
  refine ⟨fun h => ⟨?_, ?_⟩, fun x h => hostLoad_of_not_inBounds x (Nat.not_le.mpr h), hostLoad_word m addr _ _⟩
  · rw [hostLoad_of_inBounds _ h, extend_unsigned, gather_toNat]
  · rw [hostLoad_of_inBounds _ h, extend_signed, gather_toNat, width_bits_eq]

theorem newMemory_of_legal {size : Nat} (hlo : Config.minMemSize ≤ size) (hhi : size ≤ Config.maxMemSize) :
    newMemory size = .ok (Memory.zeroed size) := by
  rw [newMemory, if_neg (Nat.not_lt.mpr hlo), if_neg (Nat.not_lt.mpr hhi)]

/-- Settles O29: a legal size gives the zeroed memory, whose every byte reads 0. -/
theorem newMemoryIsZeroed : Obligations.NewMemoryIsZeroed :=
  ⟨rfl, fun size hlo hhi =>
    ⟨Memory.zeroed size, newMemory_of_legal hlo hhi, Memory.zeroed_size size, Memory.byteAt_zeroed size⟩⟩

end Sys2Proof.Claims
end

section
/-! PROOF. What leaves the memory, or its size, as it was (R42), and the reset (R63, R240 to R242). -/

namespace Sys2Proof.Claims

open Sys2Proof Sys2Proof.Machine

/-! ## Execution and the step -/

@[simp] theorem commit_mem_size (e : Effect) (s : State) : (commit e s).mem.size = s.mem.size := by
  rw [commit_mem]
  cases e.store with
  | none => rfl
  | some w => exact Memory.scatter_size ..

/-- Without a staged store, execute ends with the memory it began with. -/
theorem settle_mem {r : Except Fault Effect} {s t : State} (hr : ∀ e, r = .ok e → e.store = none)
    (h : settle r s = .next t) : t.mem = s.mem := by
  cases r with
  | ok e =>
    obtain rfl : commit e s = t := by simpa using h
    rw [commit_mem, hr e rfl]
  | error k =>
    obtain rfl : s.setRun (.faulted k) = t := by simpa using h
    rfl

/-- An instruction that is not SB, SH or SW stages no store (R104). -/
theorem exec_settle_of_not_store {i : Instr} (hi : isStore i = false) (s : State) :
    ∃ r, exec i s = settle r s ∧ ∀ e, r = .ok e → e.store = none := by
  cases i with
  | lui | auipc | addi | slti | sltiu | xori | ori | andi | slli | srli | srai
  | add | sub | sll | slt | sltu | xor | srl | sra | or | and =>
    exact ⟨_, rfl, fun _ h => (resultEffect_sound h).2.1⟩
  | lb | lh | lw | lbu | lhu => exact ⟨_, rfl, fun _ h => (loadEffect_sound h).2.1⟩
  | jal | jalr => exact ⟨_, rfl, fun _ h => (jumpEffect_sound h).2.1⟩
  | beq | bne | blt | bge | bltu | bgeu => exact ⟨_, rfl, fun _ h => (branchEffect_sound h).2.1⟩
  | fence => exact ⟨_, rfl, fun _ h => (nopEffect_sound h).2.1⟩
  | sb | sh | sw => cases hi

theorem exec_mem_of_not_store {i : Instr} {s t : State} (hi : isStore i = false) (h : exec i s = .next t) :
    t.mem = s.mem := by
  obtain ⟨r, hr, hstore⟩ := exec_settle_of_not_store hi s
  exact settle_mem hstore (hr.symm.trans h)

theorem step_mem_size {s t : State} (h : step s = .next t) : t.mem.size = s.mem.size := by
  rcases step_cases s with ⟨k, -, hk⟩ | ⟨-, k, hk⟩ | ⟨-, e, -, he⟩
  · cases hk.symm.trans h
  · cases hk.symm.trans h
    rfl
  · cases he.symm.trans h
    exact commit_mem_size e s

/-! ## The host's actions (R250) -/

/-- Everything a `Cpu.step` can return: the next state of `step`, or the report of the stored fault. -/
theorem cpuStep_cases {s t : State} {r : StepResult} (h : cpuStep s = some (t, r)) :
    (step s = .next t ∧ r = resultOf t) ∨ (∃ k, step s = .fault k ∧ t = s ∧ r = .fault k) := by
  unfold cpuStep at h
  split at h
  · cases h
    exact .inl ⟨‹_›, rfl⟩
  · cases h
    exact .inr ⟨_, ‹_›, rfl, rfl⟩
  · cases h

theorem cpuStep_mem_size {s t : State} {r : StepResult} (h : cpuStep s = some (t, r)) :
    t.mem.size = s.mem.size := by
  rcases cpuStep_cases h with ⟨ht, -⟩ | ⟨-, -, rfl, -⟩
  · exact step_mem_size ht
  · rfl

theorem perform_store_of_ok {s : State} {addr v : Word} {n : Width} {m : Memory}
    (h : hostStore s.mem addr v n = .ok m) : perform (.store addr v n) s = (s.setMem m, .unit) := by
  simp [perform, h]

theorem perform_store_of_error {s : State} {addr v : Word} {n : Width} {k : Fault}
    (h : hostStore s.mem addr v n = .error k) : perform (.store addr v n) s = (s, .error k) := by
  simp [perform, h]

theorem perform_load_of_ok {s : State} {addr v : Word} {n : Width} {x : Extension}
    (h : hostLoad s.mem addr n x = .ok v) : perform (.load addr n x) s = (s, .value v) := by
  simp [perform, h]

theorem perform_load_of_error {s : State} {addr : Word} {n : Width} {x : Extension} {k : Fault}
    (h : hostLoad s.mem addr n x = .error k) : perform (.load addr n x) s = (s, .error k) := by
  simp [perform, h]

theorem perform_step_of_some {s t : State} {r : StepResult} (h : cpuStep s = some (t, r)) :
    perform .step s = (t, .stepped r) := by
  simp [perform, h]

theorem perform_step_of_none {s : State} (h : cpuStep s = none) : perform .step s = (s, .refused) := by
  simp [perform, h]

/-- The host's load changes nothing, whatever it answers. -/
@[simp] theorem perform_load_state (s : State) (addr : Word) (n : Width) (x : Extension) :
    (perform (.load addr n x) s).1 = s := by
  cases h : hostLoad s.mem addr n x with
  | ok v => rw [perform_load_of_ok h]
  | error k => rw [perform_load_of_error h]

theorem perform_mem {a : HostAction} (s : State) (hstore : ∀ addr v n, a ≠ .store addr v n) (hstep : a ≠ .step) :
    (perform a s).1.mem = s.mem := by
  cases a with
  | store addr v n => exact absurd rfl (hstore addr v n)
  | step => exact absurd rfl hstep
  | load addr n x => rw [perform_load_state]
  | setRegister i v => exact writeReg_mem s i v
  | reset | register | pc => rfl

theorem perform_store_mem_size (s : State) (addr v : Word) (n : Width) :
    (perform (.store addr v n) s).1.mem.size = s.mem.size := by
  cases h : hostStore s.mem addr v n with
  | error k => rw [perform_store_of_error h]
  | ok m =>
    obtain ⟨-, rfl⟩ := memWrite_ok h
    rw [perform_store_of_ok h]
    exact Memory.scatter_size ..

theorem perform_step_mem_size (s : State) : (perform .step s).1.mem.size = s.mem.size := by
  cases h : cpuStep s with
  | none => rw [perform_step_of_none h]
  | some p =>
    rw [perform_step_of_some h]
    exact cpuStep_mem_size h

theorem perform_mem_size (a : HostAction) (s : State) : (perform a s).1.mem.size = s.mem.size := by
  cases a with
  | store addr v n => exact perform_store_mem_size s addr v n
  | step => exact perform_step_mem_size s
  | load | reset | register | pc | setRegister => exact congrArg Memory.size (perform_mem s (by simp) (by simp))

theorem performAll_mem_size (actions : List HostAction) (s : State) :
    (performAll actions s).mem.size = s.mem.size := by
  induction actions generalizing s with
  | nil => rfl
  | cons a rest ih => exact (ih (perform a s).1).trans (perform_mem_size a s)

/-- Settles O44: the size by the step, by each host action and by induction over a sequence of them; the bytes
because only SB, SH and SW stage a store and only a store or a step of the host reaches the memory. -/
theorem memorySizeIsFixed : Obligations.MemorySizeIsFixed :=
  ⟨fun _ _ => step_mem_size, performAll_mem_size, fun _ _ _ => exec_mem_of_not_store, fun _ => perform_mem⟩

/-! ## Reset (R240, R241) -/

@[simp] theorem readReg_newCpu (m : Memory) (r : RegIdx) : readReg (newCpu m) r = 0#32 := by
  simp [readReg, newCpu]

/-- Settles O47: a reset is `Cpu.new` beside the same memory, so every clause is one of `newCpu`. -/
theorem resetClearsTheCpu : Obligations.ResetClearsTheCpu := fun s =>
  ⟨readReg_newCpu s.mem, rfl, rfl, rfl, rfl, fun m => ⟨readReg_newCpu m, rfl, rfl, rfl, rfl⟩⟩

end Sys2Proof.Claims
end

section
/-! PROOF. The fields and the immediates of a word as numbers (R71, R78 to R81). -/

namespace Sys2Proof.Claims

open Sys2Proof Sys2Proof.Machine

/-! ## Bit fields as numbers -/

theorem toNat_extractLsb'_eq (w : Word) (start len : Nat) :
    (w.extractLsb' start len).toNat = w.toNat / 2 ^ start % 2 ^ len := by
  rw [BitVec.extractLsb'_toNat, Nat.shiftRight_eq_div_pow]

/-- A field that ends at bit 31 is a quotient: there is nothing above it to cut off. -/
theorem toNat_extractLsb'_top (w : Word) {start len : Nat} (h : start + len = 32) :
    (w.extractLsb' start len).toNat = w.toNat / 2 ^ start := by
  rw [toNat_extractLsb'_eq]
  refine Nat.mod_eq_of_lt (Nat.div_lt_of_lt_mul ?_)
  rw [← pow_add, h]
  exact w.isLt

theorem toNat_append_eq {m n : Nat} (hi : BitVec m) (lo : BitVec n) :
    (hi ++ lo).toNat = hi.toNat * 2 ^ n + lo.toNat := by
  rw [BitVec.toNat_append, ← Nat.shiftLeft_add_eq_or_of_lt lo.isLt, Nat.shiftLeft_eq]

theorem toInt_signExtend_word {n : Nat} (h : n ≤ 32) (v : BitVec n) :
    (v.signExtend 32).toInt = Int.bmod v.toNat (2 ^ n) := by
  rw [BitVec.toInt_signExtend_of_le h, BitVec.toInt_eq_toNat_bmod]

/-! ## The obligations -/

/-- Settles O2: a field is a quotient modulo its size, and one that ends at bit 31 is the quotient alone. -/
theorem fieldsSitAtTheirBits : Obligations.FieldsSitAtTheirBits := fun w =>
  have opcode_low : (opcode w).toNat = w.toNat % 2 ^ 7 := by
    rw [opcode, toNat_extractLsb'_eq, pow_zero, Nat.div_one]
  ⟨opcode_low, toNat_extractLsb'_eq w 7 5, toNat_extractLsb'_eq w 12 3, toNat_extractLsb'_eq w 15 5,
    toNat_extractLsb'_eq w 20 5, toNat_extractLsb'_top w rfl, toNat_extractLsb'_eq w 20 5,
    toNat_extractLsb'_top w rfl, toNat_extractLsb'_eq w 24 4, toNat_extractLsb'_eq w 20 4⟩

/-- Settles O3: a sign-extended field is its number in two's complement, and concatenated fields are one positional
number. -/
theorem immediatesAreAssembled : Obligations.ImmediatesAreAssembled := by
  intro w
  have top : (w.extractLsb' 31 1).toNat = w.toNat / 2 ^ 31 := toNat_extractLsb'_top w rfl
  refine ⟨?immI, ?immS, ?immB, ?immU, ?immJ⟩
  case immI =>
    rw [immI, toInt_signExtend_word (by decide), toNat_extractLsb'_top w rfl]
    norm_cast
  case immS =>
    rw [immS, toInt_signExtend_word (by decide), toNat_append_eq, toNat_extractLsb'_top w rfl, toNat_extractLsb'_eq]
    norm_cast
  case immU =>
    rw [immU, toNat_append_eq, toNat_extractLsb'_top w rfl, BitVec.toNat_zero, Nat.add_zero]
  case immB | immJ =>
    simp (disch := decide) only [immB, immJ, toInt_signExtend_word, toNat_append_eq, top, toNat_extractLsb'_eq]
    congr 1
    push_cast
    ring

end Sys2Proof.Claims
end

section
/-! PROOF. The decoder and the table of R84: the mask-and-match loop, and the unsupported words (R84, R86, R87). -/

namespace Sys2Proof.Claims

open Sys2Proof Sys2Proof.Machine

/-! ## From a row to the decoder -/

/-- Every row of the table decodes to its variant: the masked bits give the fields that `decode` looks at. -/
theorem encodedAs_of_mem_tableRows : ∀ p ∈ tableRows, EncodedAs p.1.pattern p.1.mask p.2 := by
  simp only [tableRows, upperAndJumpRows, branchRows, memoryRows, immediateRows, registerRows, List.flatten_cons,
    List.flatten_nil, List.cons_append, List.nil_append, List.mem_cons, forall_eq_or_imp, List.not_mem_nil,
    false_imp_iff, implies_true, and_true]
  and_intros
  all_goals
    intro w h
    simp [decode, decodeLoad, decodeMiscMem, decodeOpImm, decodeStore, decodeOp, decodeBranch, decodeJalr,
      fields_of_masked h]

theorem decode_of_holds {p : Row × (Word → Instr)} {w : Word} (hp : p ∈ tableRows) (h : p.1.holds w = true) :
    decode w = .ok (p.2 w) :=
  encodedAs_of_mem_tableRows p hp w (eq_of_beq h)

/-! ## From the decoder to a row -/

/-- A word that decodes matches the row that R84 prints for its instruction. -/
theorem row_holds_of_decode {w : Word} {i : Instr} (h : decode w = .ok i) : i.row.holds w = true := by
  apply decode_elim h
  case H_lui | H_auipc | H_jal =>
    intro hop
    simp [Instr.row, Row.holds, and_mask_opcode, hop]
  case H_slli | H_srli | H_srai | H_add | H_sub | H_sll | H_slt | H_sltu | H_xor | H_srl | H_sra | H_or | H_and =>
    intro hop hf3 hf7
    simp [Instr.row, Row.holds, and_mask_funct7, hop, hf3, hf7]
  all_goals
    intro hop hf3
    simp [Instr.row, Row.holds, and_mask_funct3, hop, hf3]

theorem row_mem_tableRows (i : Instr) : i.row ∈ tableRows.map Prod.fst := by
  apply of_decide_eq_true
  cases i <;> rfl

theorem exists_row_of_decode {w : Word} {i : Instr} (h : decode w = .ok i) : ∃ p ∈ tableRows, p.1.holds w = true := by
  obtain ⟨p, hp, hrow⟩ := List.mem_map.mp (row_mem_tableRows i)
  exact ⟨p, hp, hrow ▸ row_holds_of_decode h⟩

theorem decode_of_no_row {w : Word} (h : ∀ p ∈ tableRows, p.1.holds w = false) : decode w = .error .unsupported := by
  cases hd : decode w with
  | error r => rw [decode_error hd]
  | ok i =>
    obtain ⟨p, hp, hw⟩ := exists_row_of_decode hd
    exact absurd hw (by simp [h p hp])

/-! ## Disjoint rows -/

/-- Two rows that one word matches agree on the bits that both masks keep. -/
theorem patterns_agree_of_holds {p q : Row} {w : Word} (hp : p.holds w = true) (hq : q.holds w = true) :
    p.pattern &&& q.mask = q.pattern &&& p.mask := by
  rw [← eq_of_beq hp, ← eq_of_beq hq, BitVec.and_assoc, BitVec.and_assoc, BitVec.and_comm p.mask]

theorem tableRows_patterns_differ :
    tableRows.Pairwise fun p q => p.1.pattern &&& q.1.mask ≠ q.1.pattern &&& p.1.mask := by decide

/-- Settles O7: a row that matches decodes to its variant, a word without a row is unsupported, and two rows differ on a
bit that both masks keep. -/
theorem decoderIsMaskAndMatch : Obligations.DecoderIsMaskAndMatch := by
  refine ⟨fun w => ?_, fun w => ?_⟩
  · cases hfind : tableRows.find? (fun p => p.1.holds w) with
    | some p => exact decode_of_holds (List.mem_of_find?_eq_some hfind) (by simpa using List.find?_some hfind)
    | none => exact decode_of_no_row (by simpa using hfind)
  · exact tableRows_patterns_differ.imp fun hdiff ⟨hp, hq⟩ => hdiff (patterns_agree_of_holds hp hq)

end Sys2Proof.Claims
end

section
/-! PROOF. The words that are unsupported, and the step that fetches one (R87, R102, R103). -/

namespace Sys2Proof.Claims

open Sys2Proof Sys2Proof.Machine

/-! ## The major opcodes (R83) -/

/-- The major opcodes whose group holds an instruction. -/
def majorOpcodes : List (BitVec 7) :=
  [0x03#7, 0x0F#7, 0x13#7, 0x17#7, 0x23#7, 0x33#7, 0x37#7, 0x63#7, 0x67#7, 0x6F#7]

theorem decode_of_not_majorOpcode {w : Word} (h : opcode w ∉ majorOpcodes) : decode w = .error .unsupported := by
  simp only [majorOpcodes, List.mem_cons, List.not_mem_nil, or_false, not_or] at h
  simp [decode, h]

theorem majorOpcodes_low_bits : ∀ op ∈ majorOpcodes, op.extractLsb' 0 2 = 0b11#2 := by decide

theorem opcode_low_bits (w : Word) : (opcode w).extractLsb' 0 2 = w.extractLsb' 0 2 :=
  BitVec.extractLsb'_extractLsb'_of_le (by decide)

/-- A word in the 16-bit instruction space has no major opcode of the block (R70). -/
theorem decode_of_low_bits {w : Word} (h : w.extractLsb' 0 2 ≠ 0b11#2) : decode w = .error .unsupported :=
  decode_of_not_majorOpcode fun hop => h (opcode_low_bits w ▸ majorOpcodes_low_bits _ hop)

/-! ## The step (R102, R103) -/

theorem gather_word_eq_wordAt (m : Memory) (a : Nat) : m.gather a .word = wordAt m a :=
  calc m.gather a .word
    _ = BitVec.ofNat 32 (m.gather a .word).toNat := (BitVec.setWidth_eq _).symm.trans (BitVec.ofNat_toNat 32 _).symm
    _ = wordAt m a := congrArg (BitVec.ofNat 32) (gather_toNat m a .word)

theorem fetch_of_fetches {s : State} {w : Word} (h : Fetches s w) : fetch s = .ok w := by
  obtain ⟨-, haligned, hbounds, rfl⟩ := h
  rw [fetch_of_inBounds haligned hbounds, gather_word_eq_wordAt]

/-- Setting the run state to faulted is the whole fault entry of R212. -/
theorem entersFault_setRun (s : State) (k : Fault) : EntersFault s (s.setRun (.faulted k)) k :=
  ⟨fun r => readReg_setRun s _ r, rfl, ⟨rfl, fun _ => rfl⟩, rfl⟩

theorem step_of_fetches_decode_error {s : State} {w : Word} {r : Reject} (h : Fetches s w)
    (hd : decode w = .error r) : ∃ t, step s = .next t ∧ EntersFault s t .illegalInstruction := by
  have fault := fetchInstr_of_decode_error (fetch_of_fetches h) hd
  obtain ⟨hrun, -⟩ := h
  exact ⟨_, step_of_fetch_error hrun fault, entersFault_setRun s _⟩

/-- Settles O8: no row means no instruction; each class of R87 is an arm that the decoder of its opcode's group does not
have; and a decode that fails is the fault of the step. -/
theorem unsupportedWordsFault : Obligations.UnsupportedWordsFault := by
  refine ⟨fun _ => decode_of_no_row, fun w => ⟨decode_of_low_bits, decode_of_not_majorOpcode, ?miscMem, ?jalr, ?branch,
    ?load, ?store, ?slli, ?srliSrai, ?opFunct7, ?opFunct3⟩, fun _ _ => step_of_fetches_decode_error⟩
  case miscMem =>
    intro hop hf3
    simp [decode, decodeMiscMem, *]
  case jalr =>
    intro hop hf3
    simp [decode, decodeJalr, *]
  case branch =>
    intro hop hf3
    obtain h | h : funct3 w = 2#3 ∨ funct3 w = 3#3 := by simpa using hf3
    all_goals simp [decode, decodeBranch, *]
  case load =>
    intro hop hf3
    obtain h | h | h : funct3 w = 3#3 ∨ funct3 w = 6#3 ∨ funct3 w = 7#3 := by simpa using hf3
    all_goals simp [decode, decodeLoad, *]
  case store =>
    intro hop hf3
    obtain h | h | h | h | h :
      funct3 w = 3#3 ∨ funct3 w = 4#3 ∨ funct3 w = 5#3 ∨ funct3 w = 6#3 ∨ funct3 w = 7#3 := by simpa using hf3
    all_goals simp [decode, decodeStore, *]
  case slli =>
    intro hop hf3 hf7
    simp [decode, decodeOpImm, *]
  case srliSrai =>
    intro hop hf3 hf7
    obtain ⟨hsrli, hsrai⟩ : funct7 w ≠ 0x00#7 ∧ funct7 w ≠ 0x20#7 := by simpa using hf7
    simp [decode, decodeOpImm, *]
  case opFunct7 =>
    intro hop hf7
    obtain ⟨hbase, halternate⟩ : funct7 w ≠ 0x00#7 ∧ funct7 w ≠ 0x20#7 := by simpa using hf7
    simp [decode, decodeOp, *]
  case opFunct3 =>
    intro hop hf7 hf3
    obtain ⟨hsub, hsra⟩ : funct3 w ≠ 0#3 ∧ funct3 w ≠ 5#3 := by simpa using hf3
    simp [decode, decodeOp, *]

end Sys2Proof.Claims
end

section
/-! PROOF. The step: its stages in order, what it returns, and what it leaves of the memory (R100 to R108, R218). -/

namespace Sys2Proof.Claims

open Sys2Proof Sys2Proof.Machine

/-! ## Fetch and decode (R102, R103) -/

theorem fetch_of_not_inBounds {s : State} (h : aligned s.pc) (hb : ¬ inBounds s.mem s.pc .word) :
    fetch s = .error .outOfBounds := (fetch_of_aligned h).trans (memRead_of_not_inBounds hb)

/-- Everything a fetch that gives a word says: the pc passed both checks. -/
theorem fetch_ok {s : State} {w : Word} (h : fetch s = .ok w) :
    aligned s.pc ∧ inBounds s.mem s.pc .word ∧ w = wordAt s.mem s.pc.toNat := by
  by_cases ha : aligned s.pc
  · by_cases hb : inBounds s.mem s.pc .word
    · cases (fetch_of_inBounds ha hb).symm.trans h
      exact ⟨ha, hb, gather_word_eq_wordAt ..⟩
    · cases (fetch_of_not_inBounds ha hb).symm.trans h
  · cases (fetch_of_not_aligned ha).symm.trans h

/-- The condition the statements give for a fetch is the model's own fetch, by a running Cpu. -/
theorem fetches_iff {s : State} {w : Word} : Fetches s w ↔ s.run = .running ∧ fetch s = .ok w := by
  constructor
  · intro h
    have hfetch := fetch_of_fetches h
    obtain ⟨hrun, -⟩ := h
    exact ⟨hrun, hfetch⟩
  · rintro ⟨hrun, hfetch⟩
    obtain ⟨ha, hb, hw⟩ := fetch_ok hfetch
    exact ⟨hrun, ha, hb, hw⟩

theorem fetchInstr_ok {s : State} {i : Instr} (h : fetchInstr s = .ok i) :
    ∃ w, fetch s = .ok w ∧ decode w = .ok i := by
  cases hfetch : fetch s with
  | error k => cases (fetchInstr_of_fetch_error hfetch).symm.trans h
  | ok w =>
    cases hdecode : decode w with
    | error r => cases (fetchInstr_of_decode_error hfetch hdecode).symm.trans h
    | ok j =>
      cases (fetchInstr_of_decode hfetch hdecode).symm.trans h
      exact ⟨w, rfl, hdecode⟩

/-! ## The stages of a step (R218) -/

theorem step_of_fetch_fault {s : State} {k : Fault} (hrun : s.run = .running) (h : fetch s = .error k) :
    ∃ t, step s = .next t ∧ EntersFault s t k :=
  ⟨_, step_of_fetch_error hrun (fetchInstr_of_fetch_error h), entersFault_setRun s k⟩

theorem step_of_fetches_decode {s : State} {w : Word} {i : Instr} (h : Fetches s w) (hd : decode w = .ok i) :
    step s = exec i s := by
  obtain ⟨hrun, hfetch⟩ := fetches_iff.mp h
  exact step_of_fetchInstr hrun (fetchInstr_of_decode hfetch hd)

/-- Everything a step that goes on can be: a fault entry before execute, or the execution of the one instruction that
it fetched. -/
theorem step_next_cases {s t : State} (h : step s = .next t) :
    (∃ k, t = s.setRun (.faulted k)) ∨ ∃ w i, Fetches s w ∧ decode w = .ok i ∧ exec i s = .next t := by
  cases hrun : s.run with
  | faulted k => cases (step_faulted hrun).symm.trans h
  | running =>
    cases hf : fetchInstr s with
    | error k =>
      cases (step_of_fetch_error hrun hf).symm.trans h
      exact .inl ⟨k, rfl⟩
    | ok i =>
      obtain ⟨w, hfetch, hdecode⟩ := fetchInstr_ok hf
      exact .inr ⟨w, i, fetches_iff.mpr ⟨hrun, hfetch⟩, hdecode, (step_of_fetchInstr hrun hf).symm.trans h⟩

/-- A step that leaves the Cpu running took no fault, so it executed the instruction that it fetched. -/
theorem executes_of_step_running {s t : State} (h : step s = .next t) (ht : t.run = .running) :
    ∃ w i, Fetches s w ∧ decode w = .ok i ∧ exec i s = .next t := by
  rcases step_next_cases h with ⟨k, rfl⟩ | hexec
  · cases ht
  · exact hexec

/-- Settles O32: one clause for each stage, in the order of R218. -/
theorem faultsComeInOrder : Obligations.FaultsComeInOrder := by
  refine ⟨fun _ _ => step_faulted, ?alignment, ?bounds, fun _ _ _ => step_of_fetches_decode_error,
    fun _ _ _ => step_of_fetches_decode⟩
  case alignment =>
    intro s hrun ha
    exact step_of_fetch_fault hrun (fetch_of_not_aligned ha)
  case bounds =>
    intro s hrun ha hb
    exact step_of_fetch_fault hrun (fetch_of_not_inBounds ha (Nat.not_le.mpr hb))

/-! ## What a step returns (R100, R101, R108) -/

theorem cpuStep_of_next {s t : State} (h : step s = .next t) : cpuStep s = some (t, resultOf t) := by
  simp [cpuStep, h]

theorem cpuStep_of_fault {s : State} {k : Fault} (h : step s = .fault k) : cpuStep s = some (s, .fault k) := by
  simp [cpuStep, h]

theorem resultOf_running {t : State} (h : t.run = .running) : resultOf t = .ok := by simp [resultOf, h]

theorem resultOf_faulted {t : State} {k : Fault} (h : t.run = .faulted k) : resultOf t = .fault k := by
  simp [resultOf, h]

theorem resultOf_eq_ok_iff {t : State} : resultOf t = .ok ↔ t.run = .running := by
  refine ⟨fun h => ?_, resultOf_running⟩
  cases hrun : t.run with
  | running => rfl
  | faulted k => cases (resultOf_faulted hrun).symm.trans h

theorem core_run_of_fault {s : State} {k : Fault} (h : step s = .fault k) (n : Nat) :
    Sys2Proof.core.run (n + 1) s = .fault k := by
  have hcore : Sys2Proof.core.step s = .fault k := h
  simp [Host.Core.run, hcore]

theorem performAll_steps_of_fault {s : State} {k : Fault} (h : step s = .fault k) (n : Nat) :
    performAll (List.replicate n .step) s = s := by
  induction n with
  | zero => rfl
  | succ n ih => rw [List.replicate_succ, performAll, perform_step_of_some (cpuStep_of_fault h), ih]

/-- Settles O34: the one step by `step_faulted`, the later ones because the state it leaves is the same. -/
theorem faultedCpuReportsAgain : Obligations.FaultedCpuReportsAgain := by
  intro s k hrun
  have fault := step_faulted hrun
  exact ⟨cpuStep_of_fault fault, core_run_of_fault fault, performAll_steps_of_fault fault⟩

theorem exists_next_of_running {s : State} (hrun : s.run = .running) : ∃ t, step s = .next t := by
  rcases step_cases s with ⟨k, hk, -⟩ | ⟨-, k, h⟩ | ⟨-, e, -, h⟩
  · cases hrun.symm.trans hk
  · exact ⟨_, h⟩
  · exact ⟨_, h⟩

theorem step_ne_refused (s : State) (r : Refusal) : step s ≠ .refused r := by
  rcases step_cases s with ⟨k, -, h⟩ | ⟨-, k, h⟩ | ⟨-, e, -, h⟩ <;> simp [h]

/-- Settles O36: a faulted Cpu reports again; a running one has a next state, and the run state of that one says
whether the step took a fault or executed what it fetched. -/
theorem everyStepReturns : Obligations.EveryStepReturns := by
  refine ⟨fun _ => exists_next_of_running, step_ne_refused, fun s => ?returns⟩
  case returns =>
    cases hrun : s.run with
    | faulted k => exact ⟨s, .fault k, cpuStep_of_fault (step_faulted hrun), .inl ⟨k, rfl⟩⟩
    | running =>
      obtain ⟨t, ht⟩ := exists_next_of_running hrun
      refine ⟨t, resultOf t, cpuStep_of_next ht, ?_⟩
      cases htrun : t.run with
      | faulted k => exact .inl ⟨k, resultOf_faulted htrun⟩
      | running => exact .inr ⟨resultOf_running htrun, executes_of_step_running ht htrun⟩

/-- Settles O37: Ok is the result of exactly the next states that are running, and only execution leads to one. -/
theorem okStepRetiresOneInstruction : Obligations.OkStepRetiresOneInstruction := by
  refine ⟨fun s t _ hstep ht => ?commits, fun s t h => ?retires⟩
  case commits => rw [cpuStep_of_next hstep, resultOf_running ht]
  case retires =>
    rcases cpuStep_cases h with ⟨hstep, hok⟩ | ⟨k, -, -, hok⟩
    · have ht := resultOf_eq_ok_iff.mp hok.symm
      exact ⟨ht, executes_of_step_running hstep ht⟩
    · cases hok

/-! ## What a step leaves of the memory (R107) -/

/-- The commit of a store whose bounds were checked. -/
theorem storesBytes_commit {s : State} (hm : s.mem.wf) {n : Width} {addr : Word} (v : Word)
    (h : inBounds s.mem addr n) :
    StoresBytes s (commit { reg := none, store := some ⟨addr, n, v⟩, next := sequentialPc s } s)
      addr.toNat n.bytes v := by
  have bytes := Memory.byteAt_scatter hm v h
  refine ⟨fun i hi => ?_, fun b hb => ?_, commit_mem_size _ s, fun r => readReg_commit _ s r, rfl, commit_run _ s⟩
  · rw [commit_mem, bytes, if_pos (by omega), Nat.add_sub_cancel_left]
  · rw [commit_mem, bytes, if_neg (by omega)]

/-- Everything a store can do to the memory: write its bytes and no other, or fault and write none. -/
theorem settle_storeEffect_cases {s t : State} (hm : s.mem.wf) {n : Width} {rs1 rs2 : RegIdx} {imm : Word}
    (h : settle (storeEffect s n rs1 rs2 imm) s = .next t) :
    SameMemory s t ∨ StoresBytes s t (ea s rs1 imm) n.bytes (readReg s rs2) := by
  by_cases hb : inBounds s.mem (effectiveAddress s rs1 imm) n
  · rw [storeEffect_of_inBounds rs2 hb] at h
    cases h
    exact .inr (storesBytes_commit hm _ hb)
  · rw [storeEffect_of_not_inBounds rs2 hb] at h
    cases h
    exact .inl ⟨rfl, fun _ => rfl⟩

theorem sameMemory_of_mem_eq {s t : State} (h : t.mem = s.mem) : SameMemory s t := by simp [SameMemory, h]

/-- Settles O40: of the instructions only SB, SH and SW reach the memory, each at its own width, and a fault entry
leaves it alone. -/
theorem stepChangesOnlyStoredBytes : Obligations.StepChangesOnlyStoredBytes := by
  intro s t hm h
  rcases step_next_cases h with ⟨k, rfl⟩ | ⟨w, i, hw, hd, hexec⟩
  · exact .inl (sameMemory_of_mem_eq rfl)
  cases hi : isStore i with
  | false => exact .inl (sameMemory_of_mem_eq (exec_mem_of_not_store hi hexec))
  | true =>
    cases i with
    | sb rs1 rs2 imm =>
      exact (settle_storeEffect_cases hm hexec).imp_right fun stored =>
        ⟨w, _, rs1, rs2, imm, 1, hw, hd, .inl ⟨rfl, rfl⟩, stored⟩
    | sh rs1 rs2 imm =>
      exact (settle_storeEffect_cases hm hexec).imp_right fun stored =>
        ⟨w, _, rs1, rs2, imm, 2, hw, hd, .inr (.inl ⟨rfl, rfl⟩), stored⟩
    | sw rs1 rs2 imm =>
      exact (settle_storeEffect_cases hm hexec).imp_right fun stored =>
        ⟨w, _, rs1, rs2, imm, 4, hw, hd, .inr (.inr ⟨rfl, rfl⟩), stored⟩
    | _ => cases hi

end Sys2Proof.Claims
end

section
/-! PROOF. The instructions that give rd a value, and register-register arithmetic (R121 to R130). -/

namespace Sys2Proof.Claims

open Sys2Proof Sys2Proof.Machine

/-! ## Encoding -/

/-- `encodedAs_of_mem_tableRows` for a row that is written out. -/
theorem encodedAs_of_row {pattern mask : Word} {build : Word → Instr} (h : (⟨pattern, mask⟩, build) ∈ tableRows) :
    EncodedAs pattern mask build := encodedAs_of_mem_tableRows _ h

/-! ## The write of a result (R105, R106) -/

/-- The commit of a result: rd and the pc, and nothing else. -/
theorem writesReg_commit (s : State) (rd : RegIdx) (v : Word) :
    WritesReg s (commit { reg := some (rd, v), store := none, next := sequentialPc s } s) rd v (s.pc + 4#32) := by
  obtain ⟨value, others, -, memory, run⟩ := writesReg_writeReg s rd v
  exact ⟨value, others, rfl, memory, run⟩

/-- An instruction whose meaning is a result completes and gives rd the result, in whichever form that is written. -/
theorem writesReg_of_resultEffect {i : Instr} {s : State} {rd : RegIdx} {v w : Word}
    (hexec : exec i s = settle (resultEffect s rd v) s) (hvalue : v = w) :
    ∃ t, exec i s = .next t ∧ WritesReg s t rd w (s.pc + 4#32) :=
  ⟨_, hexec, hvalue ▸ writesReg_commit s rd v⟩

/-! ## The values as numbers (R13, R14) -/

theorem sub_eq_ofInt (a b : Word) : a - b = BitVec.ofInt 32 ((a.toNat : Int) - b.toNat) := by
  simp [Int.sub_eq_add_neg, BitVec.ofInt_add, BitVec.ofInt_neg, BitVec.sub_eq_add_neg]

theorem shiftAmount_eq_mod (v : Word) : shiftAmount v = v.toNat % 32 := by
  simp [shiftAmount]

theorem shiftLeft_eq_ofNat_mul (a : Word) (n : Nat) : a <<< n = BitVec.ofNat 32 (a.toNat * 2 ^ n) :=
  congrArg (BitVec.ofNat 32) (Nat.shiftLeft_eq a.toNat n)

theorem ushiftRight_eq_ofNat_div (a : Word) (n : Nat) : a >>> n = BitVec.ofNat 32 (a.toNat / 2 ^ n) := by
  rw [← Nat.shiftRight_eq_div_pow, ← BitVec.toNat_ushiftRight, BitVec.ofNat_toNat, BitVec.setWidth_eq]

theorem sshiftRight_eq_ofInt_div (a : Word) (n : Nat) : a.sshiftRight n = BitVec.ofInt 32 (a.toInt / 2 ^ n) := by
  rw [BitVec.sshiftRight_eq, Int.shiftRight_eq_div_pow, Nat.cast_pow, Nat.cast_ofNat]

theorem flagValue_lessSigned (a b : Word) : flagValue (lessSigned a b) = boolWord (a.toInt < b.toInt) := by
  simp [flagValue, lessSigned, boolWord]

theorem flagValue_lessUnsigned (a b : Word) : flagValue (lessUnsigned a b) = boolWord (a.toNat < b.toNat) := by
  simp [flagValue, lessUnsigned, boolWord]

/-! ## The obligations -/

/-- Settles O10: two rows of the table, and the sum and difference of bit vectors as numbers. -/
theorem addAndSubWrap : Obligations.AddAndSubWrap := by
  refine ⟨encodedAs_of_row ?addRow, encodedAs_of_row ?subRow, fun rd rs1 rs2 s =>
    ⟨writesReg_of_resultEffect rfl (BitVec.add_def ..), writesReg_of_resultEffect rfl (sub_eq_ofInt ..)⟩⟩
  all_goals simp [tableRows, registerRows]

/-- Settles O11: the model's values are the bitwise ones as they stand. -/
theorem logicOfRegisters : Obligations.LogicOfRegisters := by
  refine ⟨encodedAs_of_row ?xorRow, encodedAs_of_row ?orRow, encodedAs_of_row ?andRow, fun rd rs1 rs2 s =>
    ⟨writesReg_of_resultEffect rfl rfl, writesReg_of_resultEffect rfl rfl, writesReg_of_resultEffect rfl rfl⟩⟩
  all_goals simp [tableRows, registerRows]

/-- Settles O12: a shift by n is a product or a quotient by 2^n, and the amount is x[rs2] modulo 32. -/
theorem shiftsOfRegisters : Obligations.ShiftsOfRegisters := by
  refine ⟨encodedAs_of_row ?sllRow, encodedAs_of_row ?srlRow, encodedAs_of_row ?sraRow, fun rd rs1 rs2 s => ?results⟩
  case results =>
    simp only [← shiftAmount_eq_mod]
    exact ⟨writesReg_of_resultEffect rfl (shiftLeft_eq_ofNat_mul ..),
      writesReg_of_resultEffect rfl (ushiftRight_eq_ofNat_div ..),
      writesReg_of_resultEffect rfl (sshiftRight_eq_ofInt_div ..)⟩
  all_goals simp [tableRows, registerRows]

/-- Settles O13: the flag value of each comparison, signed and unsigned. -/
theorem comparesOfRegisters : Obligations.ComparesOfRegisters := by
  refine ⟨encodedAs_of_row ?sltRow, encodedAs_of_row ?sltuRow, fun rd rs1 rs2 s =>
    ⟨writesReg_of_resultEffect rfl (flagValue_lessSigned ..), writesReg_of_resultEffect rfl (flagValue_lessUnsigned ..)⟩⟩
  all_goals simp [tableRows, registerRows]

end Sys2Proof.Claims
end

section
/-! PROOF. Register-immediate arithmetic and the upper immediates (R141 to R151). -/

namespace Sys2Proof.Claims

open Sys2Proof Sys2Proof.Machine

/-! ## The shifts that are none (R87) -/

/-- The two classes of R87 that a shift by an immediate leaves unsupported, read off the list of all of them. -/
theorem decode_of_shift_funct7 {w : Word} (hop : opcode w = 0x13#7) :
    (funct3 w = 1#3 → funct7 w ≠ 0x00#7 → decode w = .error .unsupported) ∧
    (funct3 w = 5#3 → funct7 w ≠ 0x00#7 → funct7 w ≠ 0x20#7 → decode w = .error .unsupported) := by
  obtain ⟨-, classes, -⟩ := unsupportedWordsFault
  obtain ⟨-, -, -, -, -, -, -, slli, srliSrai, -⟩ := classes w
  exact ⟨slli hop, fun hf3 hsrli hsrai => srliSrai hop hf3 (by simp [hsrli, hsrai])⟩

/-! ## The obligations -/

/-- Settles O14: four rows of the table; the sum of bit vectors as a number, and the bitwise values as they stand. -/
theorem addAndLogicImmediate : Obligations.AddAndLogicImmediate := by
  refine ⟨encodedAs_of_row ?addiRow, encodedAs_of_row ?xoriRow, encodedAs_of_row ?oriRow, encodedAs_of_row ?andiRow,
    fun rd rs1 imm s => ⟨writesReg_of_resultEffect rfl (BitVec.add_def ..), writesReg_of_resultEffect rfl rfl,
      writesReg_of_resultEffect rfl rfl, writesReg_of_resultEffect rfl rfl⟩⟩
  all_goals simp [tableRows, immediateRows]

/-- Settles O15: the flag value of each comparison, the immediate in the second register's place. -/
theorem comparesWithImmediate : Obligations.ComparesWithImmediate := by
  refine ⟨encodedAs_of_row ?sltiRow, encodedAs_of_row ?sltiuRow, fun rd rs1 imm s =>
    ⟨writesReg_of_resultEffect rfl (flagValue_lessSigned ..), writesReg_of_resultEffect rfl (flagValue_lessUnsigned ..)⟩⟩
  all_goals simp [tableRows, immediateRows]

/-- Settles O16: a shift by shamt is a product or a quotient by 2^shamt, and the words that are no shift are two classes
of R87. -/
theorem shiftsByImmediate : Obligations.ShiftsByImmediate := by
  refine ⟨encodedAs_of_row ?slliRow, encodedAs_of_row ?srliRow, encodedAs_of_row ?sraiRow,
    fun w hop => (decode_of_shift_funct7 hop).1, fun w hop => (decode_of_shift_funct7 hop).2, fun rd rs1 shamt s =>
    ⟨writesReg_of_resultEffect rfl (shiftLeft_eq_ofNat_mul ..),
      writesReg_of_resultEffect rfl (ushiftRight_eq_ofNat_div ..),
      writesReg_of_resultEffect rfl (sshiftRight_eq_ofInt_div ..)⟩⟩
  all_goals simp [tableRows, immediateRows]

/-- Settles O17: AUIPC's value is a sum with the pc the instruction starts from, LUI's is the immediate itself. -/
theorem upperImmediates : Obligations.UpperImmediates := by
  refine ⟨encodedAs_of_row ?auipcRow, encodedAs_of_row ?luiRow, fun rd imm s =>
    ⟨writesReg_of_resultEffect rfl (BitVec.add_def ..), writesReg_of_resultEffect rfl rfl⟩⟩
  all_goals simp [tableRows, upperAndJumpRows]

end Sys2Proof.Claims
end

section
/-! PROOF. Loads and stores (R161 to R170). -/

namespace Sys2Proof.Claims

open Sys2Proof Sys2Proof.Machine

/-! ## The loaded value (R14, R44) -/

theorem extend_unsigned_gather (m : Memory) (a : Nat) (n : Width) :
    extend .unsigned (m.gather a n) = BitVec.ofNat 32 (bytesValue m a n.bytes) := by
  rw [extend_unsigned, gather_toNat]

theorem extend_signed_gather (m : Memory) (a : Nat) (n : Width) :
    extend .signed (m.gather a n) = BitVec.ofInt 32 (Int.bmod (bytesValue m a n.bytes) (2 ^ n.bits)) := by
  rw [extend_signed, gather_toNat]

/-! ## The two shapes of a memory access (R161) -/

/-- An instruction whose execute faults enters that fault (R212). -/
theorem entersFault_of_error {i : Instr} {s : State} {r : Except Fault Effect} {k : Fault}
    (hexec : exec i s = settle r s) (hr : r = .error k) : ∃ t, exec i s = .next t ∧ EntersFault s t k :=
  ⟨_, by rw [hexec, hr, settle_error], entersFault_setRun s k⟩

/-- An instruction whose meaning is a load reads its bytes, in whichever form the extended value is written, or faults;
rd takes no part in the choice (R170). -/
theorem loadsValue_of_loadEffect (n : Width) {i : Instr} {s : State} {x : Extension} {rd rs1 : RegIdx} {imm v : Word}
    (hexec : exec i s = settle (loadEffect s n x rd rs1 imm) s)
    (hvalue : extend x (s.mem.gather (ea s rs1 imm) n) = v) : LoadsValue i s n.bytes rd rs1 imm v := by
  refine ⟨fun inside => ?_, fun outside => ?_⟩
  · rw [loadEffect_of_inBounds x rd inside] at hexec
    exact writesReg_of_resultEffect hexec hvalue
  · exact entersFault_of_error hexec (loadEffect_of_not_inBounds x rd (Nat.not_le.mpr outside))

/-- An instruction whose meaning is a store writes its bytes, or faults and writes none. -/
theorem storesValue_of_storeEffect (n : Width) {i : Instr} {s : State} (hm : s.mem.wf) {rs1 rs2 : RegIdx} {imm : Word}
    (hexec : exec i s = settle (storeEffect s n rs1 rs2 imm) s) : StoresValue i s n.bytes rs1 rs2 imm := by
  refine ⟨fun inside => ?_, fun outside => ?_⟩
  · rw [storeEffect_of_inBounds rs2 inside] at hexec
    exact ⟨_, hexec, storesBytes_commit hm _ inside⟩
  · exact entersFault_of_error hexec (storeEffect_of_not_inBounds rs2 (Nat.not_le.mpr outside))

/-! ## The obligations -/

/-- Settles O19: five rows of the table; each load is the one load shape at its width, its value the little-endian
number of the gathered bytes, extended. -/
theorem loadsReadBytes : Obligations.LoadsReadBytes := by
  refine ⟨encodedAs_of_row ?lbRow, encodedAs_of_row ?lhRow, encodedAs_of_row ?lwRow, encodedAs_of_row ?lbuRow,
    encodedAs_of_row ?lhuRow, fun rd rs1 imm s =>
    ⟨loadsValue_of_loadEffect .byte rfl (extend_signed_gather ..),
      loadsValue_of_loadEffect .half rfl (extend_signed_gather ..),
      loadsValue_of_loadEffect .word rfl (extend_unsigned_gather ..),
      loadsValue_of_loadEffect .byte rfl (extend_unsigned_gather ..),
      loadsValue_of_loadEffect .half rfl (extend_unsigned_gather ..)⟩⟩
  all_goals simp [tableRows, memoryRows]

/-- Settles O20: three rows of the table; each store is the one store shape at its width. -/
theorem storesWriteBytes : Obligations.StoresWriteBytes := by
  refine ⟨encodedAs_of_row ?sbRow, encodedAs_of_row ?shRow, encodedAs_of_row ?swRow, fun rs1 rs2 imm s hm =>
    ⟨storesValue_of_storeEffect .byte hm rfl, storesValue_of_storeEffect .half hm rfl,
      storesValue_of_storeEffect .word hm rfl⟩⟩
  all_goals simp [tableRows, memoryRows]

end Sys2Proof.Claims
end

section
/-! PROOF. Control transfer (R180 to R189). -/

namespace Sys2Proof.Claims

open Sys2Proof Sys2Proof.Machine

/-! ## The targets (R180 to R182) -/

/-- From an aligned pc, an even offset leads to a misaligned target exactly when it is 2 modulo 4. -/
theorem not_aligned_add_iff {a imm : Word} (ha : aligned a) (heven : imm.toNat % 2 = 0) :
    ¬ aligned (a + imm) ↔ imm.toNat % 4 = 2 := by
  rw [aligned_iff] at ha
  rw [aligned_iff, BitVec.toNat_add]
  omega

/-- Clearing bit 0 rounds down to an even number: it shifts right and back. -/
theorem and_not_one_eq_ofNat (a : Word) : a &&& ~~~1#32 = BitVec.ofNat 32 (a.toNat / 2 * 2) :=
  calc a &&& ~~~1#32
    _ = (a >>> 1) <<< 1 := (BitVec.shiftLeft_ushiftRight (x := a) (n := 1)).symm
    _ = BitVec.ofNat 32 ((a >>> 1).toNat * 2 ^ 1) := shiftLeft_eq_ofNat_mul _ 1
    _ = BitVec.ofNat 32 (a.toNat / 2 * 2) := by rw [BitVec.toNat_ushiftRight, Nat.shiftRight_eq_div_pow, pow_one]

/-- The target of JALR as a number. -/
theorem indirectTarget_eq_ofNat (s : State) (rs1 : RegIdx) (imm : Word) :
    indirectTarget s rs1 imm = BitVec.ofNat 32 (((readReg s rs1).toNat + imm.toNat) % 2 ^ 32 / 2 * 2) := by
  rw [indirectTarget, and_not_one_eq_ofNat, BitVec.toNat_add]

/-- Bit 0 of JALR's target is clear, so bit 1 alone says whether it is aligned. -/
theorem aligned_indirectTarget_iff (s : State) (rs1 : RegIdx) (imm : Word) :
    aligned (indirectTarget s rs1 imm) ↔ (indirectTarget s rs1 imm).getLsbD 1 = false := by
  rw [aligned_iff, indirectTarget_eq_ofNat, BitVec.getLsbD, Nat.testBit_eq_decide_div_mod_eq, decide_eq_false_iff_not,
    BitVec.toNat_ofNat]
  omega

/-! ## The commits of a transfer (R106) -/

/-- The commit of a link: rd, and the pc at the target. -/
theorem writesReg_commit_next (s : State) (rd : RegIdx) (v next : Word) :
    WritesReg s (commit { reg := some (rd, v), store := none, next := next } s) rd v next := by
  obtain ⟨value, others, -, memory, run⟩ := writesReg_writeReg s rd v
  exact ⟨value, others, rfl, memory, run⟩

/-- The commit of an effect with neither register nor store: the pc, and nothing else. -/
theorem changesPcOnly_commit (s : State) (next : Word) :
    ChangesPcOnly s (commit { reg := none, store := none, next := next } s) next :=
  ⟨fun _ => rfl, rfl, ⟨rfl, fun _ => rfl⟩, rfl⟩

/-! ## The two shapes of a transfer (R181 to R183) -/

section
variable {i : Instr} {s : State}

/-- An instruction whose meaning is a jump to an aligned target links and goes there. -/
theorem writesReg_of_jumpEffect {rd : RegIdx} {target : Word} (hexec : exec i s = settle (jumpEffect s rd target) s)
    (htarget : aligned target) : ∃ t, exec i s = .next t ∧ WritesReg s t rd (s.pc + 4#32) target := by
  rw [jumpEffect_of_aligned rd htarget] at hexec
  exact ⟨_, hexec, writesReg_commit_next s rd _ target⟩

/-- An instruction whose meaning is a jump to a misaligned target faults; it does not link. -/
theorem entersFault_of_jumpEffect {rd : RegIdx} {target : Word} (hexec : exec i s = settle (jumpEffect s rd target) s)
    (htarget : ¬ aligned target) : ∃ t, exec i s = .next t ∧ EntersFault s t .misalignedAccess :=
  entersFault_of_error hexec (jumpEffect_of_not_aligned rd htarget)

/-- An instruction whose meaning is a branch on the flag `taken` branches on the condition that the flag decides. -/
theorem branchesOn_of_branchEffect {taken : Bool} {imm : Word} {c : Prop}
    (hexec : exec i s = settle (branchEffect s taken imm) s) (hc : taken = true ↔ c) : BranchesOn i s imm c := by
  refine ⟨fun holds htarget => ?_, fun holds htarget => ?_, fun fails => ?_⟩
  · rw [hc.mpr holds, branchEffect_of_aligned htarget] at hexec
    exact ⟨_, hexec, changesPcOnly_commit s _⟩
  · rw [hc.mpr holds] at hexec
    exact entersFault_of_error hexec (branchEffect_of_not_aligned htarget)
  · rw [Bool.eq_false_iff.mpr (mt hc.mp fails), branchEffect_not_taken] at hexec
    exact ⟨_, hexec, changesPcOnly_commit s _⟩

end

/-! ## The conditions (R184 to R189) -/

theorem lessSigned_iff {a b : Word} : lessSigned a b = true ↔ a.toInt < b.toInt := decide_eq_true_iff

theorem lessUnsigned_iff {a b : Word} : lessUnsigned a b = true ↔ a.toNat < b.toNat := decide_eq_true_iff

theorem not_lessSigned_iff {a b : Word} : (!lessSigned a b) = true ↔ b.toInt ≤ a.toInt := by
  rw [Bool.not_eq_true', ← Bool.not_eq_true, lessSigned_iff, not_lt]

theorem not_lessUnsigned_iff {a b : Word} : (!lessUnsigned a b) = true ↔ b.toNat ≤ a.toNat := by
  rw [Bool.not_eq_true', ← Bool.not_eq_true, lessUnsigned_iff, not_lt]

/-! ## The obligations -/

/-- Settles O21: JAL is the jump shape at pc + imm, and 4 divides 2^32, so the offset modulo 4 decides. -/
theorem jalLinksAndJumps : Obligations.JalLinksAndJumps := by
  refine ⟨encodedAs_of_row ?jalRow, fun rd imm s => ⟨writesReg_of_jumpEffect rfl, entersFault_of_jumpEffect rfl⟩,
    fun imm s => not_aligned_add_iff⟩
  simp [tableRows, upperAndJumpRows]

/-- Settles O22: JALR is the jump shape at the sum rounded down to an even number, which bit 1 decides. -/
theorem jalrLinksAndJumps : Obligations.JalrLinksAndJumps := by
  refine ⟨encodedAs_of_row ?jalrRow, fun rd rs1 imm s => ?jumps⟩
  case jumps =>
    rw [← indirectTarget_eq_ofNat]
    refine ⟨fun hbit => writesReg_of_jumpEffect rfl ?_, fun hbit => entersFault_of_jumpEffect rfl ?_⟩
    · exact (aligned_indirectTarget_iff s rs1 imm).mpr hbit
    · rw [aligned_indirectTarget_iff, Bool.not_eq_false]
      exact hbit
  simp [tableRows, upperAndJumpRows]

/-- Settles O23: six rows of the table; each branch is the one branch shape on its comparison. -/
theorem branchesCompareAndJump : Obligations.BranchesCompareAndJump := by
  refine ⟨encodedAs_of_row ?beqRow, encodedAs_of_row ?bneRow, encodedAs_of_row ?bltRow, encodedAs_of_row ?bgeRow,
    encodedAs_of_row ?bltuRow, encodedAs_of_row ?bgeuRow, fun rs1 rs2 imm s =>
    ⟨branchesOn_of_branchEffect rfl beq_iff_eq, branchesOn_of_branchEffect rfl bne_iff_ne,
      branchesOn_of_branchEffect rfl lessSigned_iff, branchesOn_of_branchEffect rfl not_lessSigned_iff,
      branchesOn_of_branchEffect rfl lessUnsigned_iff, branchesOn_of_branchEffect rfl not_lessUnsigned_iff⟩⟩
  all_goals simp [tableRows, branchRows]

end Sys2Proof.Claims
end

section
/-! PROOF. FENCE (R200). -/

namespace Sys2Proof.Claims

open Sys2Proof Sys2Proof.Machine

/-- An instruction whose meaning is the nop effect completes and goes on at pc + 4. -/
theorem changesPcOnly_of_nopEffect {i : Instr} {s : State} (hexec : exec i s = settle (nopEffect s) s) :
    ∃ t, exec i s = .next t ∧ ChangesPcOnly s t (s.pc + 4#32) :=
  ⟨_, hexec, changesPcOnly_commit s _⟩

/-- Settles O24: one row of the table, whose mask leaves out the ignored fields; FENCE is the nop shape for every fm, pred
and succ. -/
theorem fenceOnlyAdvances : Obligations.FenceOnlyAdvances := by
  refine ⟨encodedAs_of_row ?fenceRow, fun fm pred succ s => changesPcOnly_of_nopEffect rfl⟩
  simp [tableRows, registerRows]

end Sys2Proof.Claims
end

section
/-! PROOF. Faults: what a fault entry changes, and where each kind arises (R212 to R217). -/

namespace Sys2Proof.Claims

open Sys2Proof Sys2Proof.Machine

/-! ## The fault entry (R212) -/

/-- A step from running to faulted is the fault entry and nothing more: a commit would have left the Cpu running. -/
theorem step_to_faulted {s t : State} {k : Fault} (hrun : s.run = .running) (h : step s = .next t)
    (ht : t.run = .faulted k) : t = s.setRun (.faulted k) := by
  rcases step_cases s with ⟨j, hj, -⟩ | ⟨-, j, hj⟩ | ⟨-, e, -, he⟩
  · cases hrun.symm.trans hj
  · cases hj.symm.trans h
    exact congrArg s.setRun ht
  · cases he.symm.trans h
    cases ((commit_run e s).trans hrun).symm.trans ht

/-- Settles O35: the state after the step is the fault entry, and the host is told the run state it finds there. -/
theorem faultEntryChangesOnlyRun : Obligations.FaultEntryChangesOnlyRun := by
  intro s t k hrun h ht
  refine ⟨?entry, ?result⟩
  case entry =>
    rw [step_to_faulted hrun h ht]
    exact entersFault_setRun s k
  case result => rw [cpuStep_of_next h, resultOf_faulted ht]

/-! ## Which effects are faults (R213, R215) -/

section
variable {s : State} {rd rs1 rs2 : RegIdx} {imm : Word} {k : Fault}

theorem resultEffect_ne_error (v : Word) : resultEffect s rd v ≠ .error k := nofun

theorem nopEffect_ne_error : nopEffect s ≠ .error k := nofun

theorem loadEffect_eq_error_iff {n : Width} {x : Extension} :
    loadEffect s n x rd rs1 imm = .error k ↔ k = .outOfBounds ∧ s.mem.size < ea s rs1 imm + n.bytes := by
  by_cases hb : inBounds s.mem (effectiveAddress s rs1 imm) n
  · rw [loadEffect_of_inBounds x rd hb]
    exact iff_of_false (resultEffect_ne_error _) fun ⟨_, outside⟩ => Nat.not_le.mpr outside hb
  · rw [loadEffect_of_not_inBounds x rd hb]
    simp [ea, Nat.not_le.mp hb, eq_comm]

theorem storeEffect_eq_error_iff {n : Width} :
    storeEffect s n rs1 rs2 imm = .error k ↔ k = .outOfBounds ∧ s.mem.size < ea s rs1 imm + n.bytes := by
  by_cases hb : inBounds s.mem (effectiveAddress s rs1 imm) n
  · rw [storeEffect_of_inBounds rs2 hb]
    exact iff_of_false nofun fun ⟨_, outside⟩ => Nat.not_le.mpr outside hb
  · rw [storeEffect_of_not_inBounds rs2 hb]
    simp [ea, Nat.not_le.mp hb, eq_comm]

theorem jumpEffect_eq_error_iff {target : Word} :
    jumpEffect s rd target = .error k ↔ k = .misalignedAccess ∧ ¬ aligned target := by
  by_cases ha : aligned target
  · simp [jumpEffect_of_aligned rd ha, ha]
  · simp [jumpEffect_of_not_aligned rd ha, ha, eq_comm]

theorem branchEffect_eq_error_iff {taken : Bool} :
    branchEffect s taken imm = .error k ↔ k = .misalignedAccess ∧ taken = true ∧ ¬ aligned (s.pc + imm) := by
  cases taken with
  | false => simp [branchEffect_not_taken]
  | true =>
    by_cases ha : aligned (relativeTarget s imm)
    · rw [branchEffect_of_aligned ha]
      exact iff_of_false nofun fun ⟨_, _, misaligned⟩ => misaligned ha
    · rw [branchEffect_of_not_aligned ha]
      have misaligned : ¬ aligned (s.pc + imm) := ha
      simp [misaligned, eq_comm]

end

/-! ## The faults of execute -/

/-- The faults that executing an instruction can raise: its data access goes past the end of memory, or the target of
its transfer is misaligned (R213, R215). Decode's IllegalInstruction is not among them (R214). -/
def ExecFault (i : Instr) (s : State) (k : Fault) : Prop :=
  (k = .outOfBounds ∧ ∃ n rs1 imm, dataAccess i = some (n, rs1, imm) ∧ s.mem.size < ea s rs1 imm + n) ∨
  (k = .misalignedAccess ∧ ∃ a, transferTarget s i = some a ∧ ¬ aligned a)

section
variable {i : Instr} {s : State} {k : Fault}

theorem not_execFault (haccess : dataAccess i = none) (htarget : transferTarget s i = none) : ¬ ExecFault i s k := by
  simp [ExecFault, haccess, htarget]

theorem execFault_iff_of_access {n : Nat} {rs1 : RegIdx} {imm : Word} (haccess : dataAccess i = some (n, rs1, imm))
    (htarget : transferTarget s i = none) : ExecFault i s k ↔ k = .outOfBounds ∧ s.mem.size < ea s rs1 imm + n := by
  simp [ExecFault, haccess, htarget]

theorem execFault_iff_of_jump {a : Word} (haccess : dataAccess i = none) (htarget : transferTarget s i = some a) :
    ExecFault i s k ↔ k = .misalignedAccess ∧ ¬ aligned a := by
  simp [ExecFault, haccess, htarget]

theorem execFault_iff_of_branch {c : Prop} [Decidable c] {a : Word} (haccess : dataAccess i = none)
    (htarget : transferTarget s i = if c then some a else none) :
    ExecFault i s k ↔ k = .misalignedAccess ∧ c ∧ ¬ aligned a := by
  by_cases hc : c <;> simp [ExecFault, haccess, htarget, hc]

/-- A branch whose flag decides the condition of its target faults exactly where the target is misaligned. -/
theorem branchEffect_eq_error_iff_execFault {taken : Bool} {c : Prop} [Decidable c] {imm : Word}
    (hc : taken = true ↔ c) (haccess : dataAccess i = none)
    (htarget : transferTarget s i = if c then some (s.pc + imm) else none) :
    branchEffect s taken imm = .error k ↔ ExecFault i s k := by
  rw [branchEffect_eq_error_iff, execFault_iff_of_branch haccess htarget, hc]

end

/-- Every instruction ends in `settle` of an effect, and the effect is a fault exactly where `ExecFault` says. -/
theorem exec_settle_execFault (i : Instr) (s : State) :
    ∃ r, exec i s = settle r s ∧ ∀ k, r = .error k ↔ ExecFault i s k := by
  cases i with
  | lui | auipc | addi | slti | sltiu | xori | ori | andi | slli | srli | srai
  | add | sub | sll | slt | sltu | xor | srl | sra | or | and =>
    exact ⟨_, rfl, fun _ => iff_of_false (resultEffect_ne_error _) (not_execFault rfl rfl)⟩
  | fence => exact ⟨_, rfl, fun _ => iff_of_false nopEffect_ne_error (not_execFault rfl rfl)⟩
  | lb | lh | lw | lbu | lhu =>
    exact ⟨_, rfl, fun _ => loadEffect_eq_error_iff.trans (execFault_iff_of_access rfl rfl).symm⟩
  | sb | sh | sw => exact ⟨_, rfl, fun _ => storeEffect_eq_error_iff.trans (execFault_iff_of_access rfl rfl).symm⟩
  | jal => exact ⟨_, rfl, fun _ => jumpEffect_eq_error_iff.trans (execFault_iff_of_jump rfl rfl).symm⟩
  | jalr rd rs1 imm =>
    have htarget : transferTarget s (.jalr rd rs1 imm) = some (indirectTarget s rs1 imm) :=
      congrArg some (indirectTarget_eq_ofNat s rs1 imm).symm
    exact ⟨_, rfl, fun _ => jumpEffect_eq_error_iff.trans (execFault_iff_of_jump rfl htarget).symm⟩
  | beq => exact ⟨_, rfl, fun _ => branchEffect_eq_error_iff_execFault beq_iff_eq rfl rfl⟩
  | bne => exact ⟨_, rfl, fun _ => branchEffect_eq_error_iff_execFault bne_iff_ne rfl rfl⟩
  | blt => exact ⟨_, rfl, fun _ => branchEffect_eq_error_iff_execFault lessSigned_iff rfl rfl⟩
  | bge => exact ⟨_, rfl, fun _ => branchEffect_eq_error_iff_execFault not_lessSigned_iff rfl rfl⟩
  | bltu => exact ⟨_, rfl, fun _ => branchEffect_eq_error_iff_execFault lessUnsigned_iff rfl rfl⟩
  | bgeu => exact ⟨_, rfl, fun _ => branchEffect_eq_error_iff_execFault not_lessUnsigned_iff rfl rfl⟩

/-- A running Cpu is faulted after an instruction exactly when the instruction raised the fault. -/
theorem exec_faulted_iff {i : Instr} {s t : State} {k : Fault} (hrun : s.run = .running) (h : exec i s = .next t) :
    t.run = .faulted k ↔ ExecFault i s k := by
  obtain ⟨r, hr, hfault⟩ := exec_settle_execFault i s
  rw [← hfault]
  cases r with
  | ok e =>
    cases hr.symm.trans h
    simp [hrun]
  | error j =>
    cases hr.symm.trans h
    simp

/-! ## The faults of a step -/

theorem fetch_eq_error_iff {s : State} {k : Fault} :
    fetch s = .error k ↔
      (k = .misalignedAccess ∧ ¬ aligned s.pc) ∨ (k = .outOfBounds ∧ aligned s.pc ∧ s.mem.size < s.pc.toNat + 4) := by
  by_cases ha : aligned s.pc
  · by_cases hb : inBounds s.mem s.pc .word
    · rw [fetch_of_inBounds ha hb]
      refine iff_of_false nofun ?_
      rintro (⟨-, misaligned⟩ | ⟨-, -, outside⟩)
      · exact misaligned ha
      · exact Nat.not_le.mpr outside hb
    · have outside : s.mem.size < s.pc.toNat + 4 := Nat.not_le.mp hb
      simp [fetch_of_not_inBounds ha hb, ha, outside, eq_comm]
  · simp [fetch_of_not_aligned ha, ha, eq_comm]

/-- Where the fault of a step arises: in the fetch, in the decode of the fetched word, or in the execution of the
instruction that it decodes to. -/
theorem step_faulted_iff {s t : State} {k : Fault} (hrun : s.run = .running) (h : step s = .next t) :
    t.run = .faulted k ↔
      fetch s = .error k ∨
      (k = .illegalInstruction ∧ ∃ w, Fetches s w ∧ decode w = .error .unsupported) ∨
      ∃ w i, Fetches s w ∧ decode w = .ok i ∧ ExecFault i s k := by
  simp only [fetches_iff, hrun, true_and]
  cases hfetch : fetch s with
  | error j =>
    cases (step_of_fetch_error hrun (fetchInstr_of_fetch_error hfetch)).symm.trans h
    simp
  | ok w =>
    cases hdecode : decode w with
    | error r =>
      cases (step_of_fetch_error hrun (fetchInstr_of_decode_error hfetch hdecode)).symm.trans h
      obtain rfl := decode_error hdecode
      simp [hdecode, eq_comm]
    | ok i =>
      rw [step_of_fetchInstr hrun (fetchInstr_of_decode hfetch hdecode)] at h
      simp [hdecode, exec_faulted_iff hrun h]

/-- Settles O33: for each kind, the stages of `step_faulted_iff` that can raise it. The fetch and the execution raise
OutOfBounds and MisalignedAccess, each under its own condition; decode alone raises IllegalInstruction. -/
theorem faultsAriseOnlyThere : Obligations.FaultsAriseOnlyThere := by
  intro s t hrun h
  simp only [step_faulted_iff hrun h, fetch_eq_error_iff]
  refine ⟨?outOfBounds, ?illegalInstruction, ?misalignedAccess⟩
  all_goals simp [ExecFault]

end Sys2Proof.Claims
end

section
/-! PROOF. The host's reads and the test hook (R248 to R250). -/

namespace Sys2Proof.Claims

open Sys2Proof Sys2Proof.Machine

/-! ## The pc under the host's actions -/

@[simp] theorem setRegister_pc (s : State) (i : RegIdx) (v : Word) : (setRegister s i v).pc = s.pc := writeReg_pc s i v

/-- The host's store leaves the pc, whether it writes the bytes or answers an error. -/
@[simp] theorem perform_store_pc (s : State) (addr v : Word) (n : Width) :
    (perform (.store addr v n) s).1.pc = s.pc := by
  cases h : hostStore s.mem addr v n with
  | ok m => rw [perform_store_of_ok h, State.setMem_pc]
  | error k => rw [perform_store_of_error h]

theorem perform_pc {a : HostAction} (s : State) (hreset : a ≠ .reset) (hstep : a ≠ .step) :
    (perform a s).1.pc = s.pc := by
  cases a with
  | reset => exact absurd rfl hreset
  | step => exact absurd rfl hstep
  | store addr v n => exact perform_store_pc s addr v n
  | load addr n x => rw [perform_load_state]
  | setRegister i v => exact setRegister_pc s i v
  | register | pc => rfl

/-- Settles O49: the hook is a register write, so its frame is `writesReg_writeReg`; the other clauses are the laws of
`perform`, one per action and answer, and `perform_pc`. -/
theorem hostReadsAndHook : Obligations.HostReadsAndHook := by
  refine ⟨?hook, ?register, ?pc, perform_load_state, ?loadOk, ?loadError, ?storeOk, ?storeError, ?reset, ?step,
    ?setRegister, fun _ => perform_pc⟩
  case hook => exact writesReg_writeReg
  case register | pc | reset | setRegister => intros; rfl
  case loadOk => exact fun _ _ _ _ _ => perform_load_of_ok
  case loadError => exact fun _ _ _ _ _ => perform_load_of_error
  case storeOk => exact fun _ _ _ _ _ => perform_store_of_ok
  case storeError => exact fun _ _ _ _ _ => perform_store_of_error
  case step => exact fun _ _ _ => perform_step_of_some

end Sys2Proof.Claims
end

section
/-! PROOF. The invariant: new and reset states have it, every step and every host action keeps it (R21, R26, R32, R41,
R51). -/

namespace Sys2Proof.Claims

open Sys2Proof Sys2Proof.Machine

/-! ## New memories and states (R35, R41, R240) -/

/-- Everything `Memory.new` can give: the zeroed memory of a legal size. -/
theorem newMemory_ok {size : Nat} {m : Memory} (h : newMemory size = .ok m) :
    Config.minMemSize ≤ size ∧ size ≤ Config.maxMemSize ∧ m = Memory.zeroed size := by
  unfold newMemory at h
  split at h
  · cases h
  · split at h
    · cases h
    · cases h
      exact ⟨Nat.not_lt.mp ‹_›, Nat.not_lt.mp ‹_›, rfl⟩

/-- Settles O51: the zeroed memory of a legal size lists no byte. -/
theorem newMemoryIsCanonical : Obligations.NewMemoryIsCanonical := by
  intro size m h
  obtain ⟨hlo, hhi, rfl⟩ := newMemory_ok h
  exact ⟨Memory.zeroed_wf hlo hhi, Memory.zeroed_size size⟩

theorem newCpu_inv {m : Memory} (hm : m.wf) : (newCpu m).Inv where
  mem_wf := hm
  pc_aligned := rfl
  zero_cell := by simp [newCpu]

/-- Settles O42: the reset state is a new Cpu beside a memory in canonical form. -/
theorem resetHasInvariant : Obligations.ResetHasInvariant := newCpu_inv State.reset_mem_wf

/-- Settles O48: the reset state is a new Cpu, whose registers read 0, beside a zeroed memory. -/
theorem resetStateIsAllZero : Obligations.ResetStateIsAllZero :=
  ⟨readReg_newCpu _, rfl, rfl, Memory.byteAt_zeroed _⟩

/-! ## The step -/

theorem setRun_inv {s : State} (hs : s.Inv) (r : RunState) : (s.setRun r).Inv := ⟨hs.mem_wf, hs.pc_aligned, hs.zero_cell⟩

theorem setMem_inv {s : State} (hs : s.Inv) {m : Memory} (hm : m.wf) : (s.setMem m).Inv :=
  ⟨hm, hs.pc_aligned, hs.zero_cell⟩

theorem writeReg_inv {s : State} (hs : s.Inv) (i : RegIdx) (v : Word) : (writeReg s i v).Inv where
  mem_wf := by rw [writeReg_mem]; exact hs.mem_wf
  pc_aligned := by rw [writeReg_pc]; exact hs.pc_aligned
  zero_cell := (writeReg_zero_cell s i v).trans hs.zero_cell

/-- The commit of a sound effect: its store was checked against the bounds and its next pc is aligned. -/
theorem commit_inv {s : State} {e : Effect} (he : e.Sound s) (hs : s.Inv) : (commit e s).Inv where
  mem_wf := by
    rw [commit_mem]
    cases hstore : e.store with
    | none => exact hs.mem_wf
    | some w => exact Memory.scatter_wf hs.mem_wf w.value (he.store_inBounds w hstore)
  pc_aligned := he.next_aligned hs.pc_aligned
  zero_cell := (commit_zero_cell e s).trans hs.zero_cell

/-- Settles O41: a step that goes on is a fault entry or the commit of a sound effect. -/
theorem stepKeepsInvariant : Obligations.StepKeepsInvariant := by
  intro s t hs h
  rcases step_cases s with ⟨k, -, hk⟩ | ⟨-, k, hk⟩ | ⟨-, e, he, hcommit⟩
  · cases hk.symm.trans h
  · cases hk.symm.trans h
    exact setRun_inv hs _
  · cases hcommit.symm.trans h
    exact commit_inv he hs

/-! ## The host's actions (R250) -/

theorem cpuStep_inv {s t : State} {r : StepResult} (hs : s.Inv) (h : cpuStep s = some (t, r)) : t.Inv := by
  rcases cpuStep_cases h with ⟨hstep, -⟩ | ⟨k, -, rfl, -⟩
  · exact stepKeepsInvariant s t hs hstep
  · exact hs

theorem perform_inv (a : HostAction) {s : State} (hs : s.Inv) : (perform a s).1.Inv := by
  cases a with
  | store addr v n =>
    cases h : hostStore s.mem addr v n with
    | ok m =>
      rw [perform_store_of_ok h]
      exact setMem_inv hs (memWrite_wf hs.mem_wf h)
    | error k =>
      rw [perform_store_of_error h]
      exact hs
  | load addr n x =>
    rw [perform_load_state]
    exact hs
  | reset => exact newCpu_inv hs.mem_wf
  | step =>
    cases h : cpuStep s with
    | some p =>
      rw [perform_step_of_some h]
      exact cpuStep_inv hs h
    | none =>
      rw [perform_step_of_none h]
      exact hs
  | setRegister i v => exact writeReg_inv hs i v
  | register | pc => exact hs

theorem performAll_inv (actions : List HostAction) {s : State} (hs : s.Inv) : (performAll actions s).Inv := by
  induction actions generalizing s with
  | nil => exact hs
  | cons a rest ih => exact ih (perform_inv a hs)

/-- An aligned pc passes the first check of the fetch, so only the bounds can fail. -/
theorem fetch_ne_misaligned {s : State} (h : aligned s.pc) : fetch s ≠ .error .misalignedAccess := by
  simp [fetch_eq_error_iff, h]

/-- Settles O43: a new Cpu in a new memory has the invariant, every action keeps it, and it holds the pc aligned. -/
theorem everyRunStaysLegal : Obligations.EveryRunStaysLegal := by
  intro size m actions h
  obtain ⟨hm, -⟩ := newMemoryIsCanonical size m h
  have inv := performAll_inv actions (newCpu_inv hm)
  exact ⟨inv, fetch_ne_misaligned inv.pc_aligned⟩

end Sys2Proof.Claims
end

section
/-! PROOF. Encoding and decoding undo each other, and what decodes is well formed (R72 to R80, R84, R88). -/

namespace Sys2Proof.Claims

open Sys2Proof Sys2Proof.Machine

/-! ## The immediates a format can hold (R80) -/

section
variable {imm : Word}

theorem signExtend_of_fits12 (h : fits12 imm) : (imm.extractLsb' 0 12).signExtend 32 = imm :=
  signExtend_of_fitsSigned (by decide) (by decide) h

theorem signExtend_of_fitsB (h : fitsB imm) : (imm.extractLsb' 1 12 ++ 0#1).signExtend 32 = imm := by
  obtain ⟨hrange, heven⟩ := Bool.and_eq_true_iff.mp h
  rw [append_zero_of_isEven imm heven]
  exact signExtend_of_fitsSigned (by decide) (by decide) hrange

theorem signExtend_of_fitsJ (h : fitsJ imm) : (imm.extractLsb' 1 20 ++ 0#1).signExtend 32 = imm := by
  obtain ⟨hrange, heven⟩ := Bool.and_eq_true_iff.mp h
  rw [append_zero_of_isEven_jal imm heven]
  exact signExtend_of_fitsSigned (by decide) (by decide) hrange

end

/-- Settles O4: the encoded word has the opcode and function fields that select the instruction's arm of the decoder, and
its operands are read back, the immediate because it fits its format. -/
theorem decodeInvertsEncode : Obligations.DecodeInvertsEncode := by
  intro i hwf
  cases i with
  | lui | auipc => simp [encode, decode, append_zero_of_fitsU _ hwf]
  | jal => simp [encode, decode, signExtend_of_fitsJ hwf]
  | jalr => simp [encode, decode, decodeJalr, signExtend_of_fits12 hwf]
  | beq | bne | blt | bge | bltu | bgeu => simp [encode, decode, decodeBranch, signExtend_of_fitsB hwf]
  | lb | lh | lw | lbu | lhu => simp [encode, decode, decodeLoad, signExtend_of_fits12 hwf]
  | sb | sh | sw => simp [encode, decode, decodeStore, signExtend_of_fits12 hwf]
  | addi | slti | sltiu | xori | ori | andi => simp [encode, decode, decodeOpImm, signExtend_of_fits12 hwf]
  | slli | srli | srai => simp [encode, decode, decodeOpImm]
  | add | sub | sll | slt | sltu | xor | srl | sra | or | and => simp [encode, decode, decodeOp]
  | fence => simp [encode, decode, decodeMiscMem]

/-! ## The immediates of a word -/

theorem fits12_immI (w : Word) : fits12 (immI w) := fitsSigned_signExtend (by decide) _

theorem fits12_immS (w : Word) : fits12 (immS w) := fitsSigned_signExtend (by decide) _

theorem isEven_signExtend_append {n : Nat} (v : BitVec n) : isEven ((v ++ 0#1).signExtend 32) := by
  rw [isEven, beq_iff_eq]
  ext i hi
  simp [show i = 0 by omega, BitVec.getElem_signExtend, BitVec.getElem_append]

theorem fitsB_immB (w : Word) : fitsB (immB w) :=
  Bool.and_eq_true_iff.mpr ⟨fitsSigned_signExtend (by decide) _, isEven_signExtend_append _⟩

theorem fitsJ_immJ (w : Word) : fitsJ (immJ w) :=
  Bool.and_eq_true_iff.mpr ⟨fitsSigned_signExtend (by decide) _, isEven_signExtend_append _⟩

theorem fitsU_immU (w : Word) : fitsU (immU w) := by
  rw [fitsU, beq_iff_eq, immU]
  exact BitVec.extractLsb'_append_eq_of_add_le (by decide)

/-- Settles O6: the immediate of each format is a sign-extended field, or a field above twelve zeros. -/
theorem decodedInstructionsAreWellFormed : Obligations.DecodedInstructionsAreWellFormed := by
  intro w i h
  apply decode_elim h
  case H_lui | H_auipc => exact fun _ => fitsU_immU w
  case H_jal => exact fun _ => fitsJ_immJ w
  case H_beq | H_bne | H_blt | H_bge | H_bltu | H_bgeu => exact fun _ _ => fitsB_immB w
  case H_sb | H_sh | H_sw => exact fun _ _ => fits12_immS w
  case H_jalr | H_lb | H_lh | H_lw | H_lbu | H_lhu | H_addi | H_slti | H_sltiu | H_xori | H_ori | H_andi =>
    exact fun _ _ => fits12_immI w
  case H_slli | H_srli | H_srai | H_add | H_sub | H_sll | H_slt | H_sltu | H_xor | H_srl | H_sra | H_or | H_and =>
    exact fun _ _ _ => rfl
  case H_fence => exact fun _ _ => rfl

/-! ## A word is put together from its fields (R72 to R79) -/

/-- A field that lies in the sign-extended value itself is not touched by the extension. -/
theorem extractLsb'_signExtend_of_le {n start len : Nat} (v : BitVec n) (h : start + len ≤ n) (hn : n ≤ 32) :
    (v.signExtend 32).extractLsb' start len = v.extractLsb' start len := by
  ext i hi
  simp [BitVec.getElem_signExtend, show start + i < 32 by omega, show start + i < n by omega]

/-! The immediates give their bits back to the places that R80 takes them from. -/

theorem immI_bits (w : Word) : (immI w).extractLsb' 0 12 = w.extractLsb' 20 12 := by
  simp (disch := decide) [-Nat.reduceAdd, immI, extractLsb'_signExtend_of_le]

theorem immS_bits (w : Word) :
    (immS w).extractLsb' 5 7 = w.extractLsb' 25 7 ∧ (immS w).extractLsb' 0 5 = w.extractLsb' 7 5 := by
  simp (disch := decide) [-Nat.reduceAdd, immS, extractLsb'_signExtend_of_le, BitVec.extractLsb'_append_eq_of_le,
    BitVec.extractLsb'_append_eq_of_add_le]

theorem immB_bits (w : Word) :
    (immB w).extractLsb' 12 1 = w.extractLsb' 31 1 ∧ (immB w).extractLsb' 5 6 = w.extractLsb' 25 6 ∧
    (immB w).extractLsb' 1 4 = w.extractLsb' 8 4 ∧ (immB w).extractLsb' 11 1 = w.extractLsb' 7 1 := by
  simp (disch := decide) [-Nat.reduceAdd, immB, extractLsb'_signExtend_of_le, BitVec.extractLsb'_append_eq_of_le,
    BitVec.extractLsb'_append_eq_of_add_le]

theorem immU_bits (w : Word) : (immU w).extractLsb' 12 20 = w.extractLsb' 12 20 := by
  simp (disch := decide) [-Nat.reduceAdd, immU, BitVec.extractLsb'_append_eq_of_le]

theorem immJ_bits (w : Word) :
    (immJ w).extractLsb' 20 1 = w.extractLsb' 31 1 ∧ (immJ w).extractLsb' 1 10 = w.extractLsb' 21 10 ∧
    (immJ w).extractLsb' 11 1 = w.extractLsb' 20 1 ∧ (immJ w).extractLsb' 12 8 = w.extractLsb' 12 8 := by
  simp (disch := decide) [-Nat.reduceAdd, immJ, extractLsb'_signExtend_of_le, BitVec.extractLsb'_append_eq_of_le,
    BitVec.extractLsb'_append_eq_of_add_le]

theorem regBits_rdField (w : Word) : regBits (rdField w) = w.extractLsb' 7 5 := rfl
theorem regBits_rs1Field (w : Word) : regBits (rs1Field w) = w.extractLsb' 15 5 := rfl
theorem regBits_rs2Field (w : Word) : regBits (rs2Field w) = w.extractLsb' 20 5 := rfl

section
open BitVec (extractLsb'_append_extractLsb'_eq_extractLsb' extractLsb'_eq_self)
variable {w : Word} {f7 : BitVec 7} {f3 : BitVec 3} {op : BitVec 7}

/-! Fields that lie next to each other join to one, and the whole row of them is the word. -/

theorem rType_fields (hop : opcode w = op) (hf3 : funct3 w = f3) (hf7 : funct7 w = f7) :
    rType f7 (regBits (rs2Field w)) (regBits (rs1Field w)) f3 (regBits (rdField w)) op = w := by
  subst hop hf3 hf7
  simp only [rType, opcode, funct3, funct7, regBits_rdField, regBits_rs1Field, regBits_rs2Field,
    extractLsb'_append_extractLsb'_eq_extractLsb', -Nat.reduceAdd]
  exact extractLsb'_eq_self

theorem iType_fields (hop : opcode w = op) (hf3 : funct3 w = f3) :
    iType (immI w) (regBits (rs1Field w)) f3 (regBits (rdField w)) op = w := by
  subst hop hf3
  simp only [iType, opcode, funct3, immI_bits, regBits_rdField, regBits_rs1Field,
    extractLsb'_append_extractLsb'_eq_extractLsb', -Nat.reduceAdd]
  exact extractLsb'_eq_self

theorem sType_fields (hop : opcode w = op) (hf3 : funct3 w = f3) :
    sType (immS w) (regBits (rs2Field w)) (regBits (rs1Field w)) f3 op = w := by
  subst hop hf3
  simp only [sType, opcode, funct3, immS_bits, regBits_rs1Field, regBits_rs2Field,
    extractLsb'_append_extractLsb'_eq_extractLsb', -Nat.reduceAdd]
  exact extractLsb'_eq_self

theorem bType_fields (hop : opcode w = op) (hf3 : funct3 w = f3) :
    bType (immB w) (regBits (rs2Field w)) (regBits (rs1Field w)) f3 op = w := by
  subst hop hf3
  simp only [bType, opcode, funct3, immB_bits, regBits_rs1Field, regBits_rs2Field,
    extractLsb'_append_extractLsb'_eq_extractLsb', -Nat.reduceAdd]
  exact extractLsb'_eq_self

theorem uType_fields (hop : opcode w = op) : uType (immU w) (regBits (rdField w)) op = w := by
  subst hop
  simp only [uType, opcode, immU_bits, regBits_rdField, extractLsb'_append_extractLsb'_eq_extractLsb', -Nat.reduceAdd]
  exact extractLsb'_eq_self

theorem jType_fields (hop : opcode w = op) : jType (immJ w) (regBits (rdField w)) op = w := by
  subst hop
  simp only [jType, opcode, immJ_bits, regBits_rdField, extractLsb'_append_extractLsb'_eq_extractLsb', -Nat.reduceAdd]
  exact extractLsb'_eq_self

/-- FENCE's ignored fields, inst[19:15] and inst[11:7], are what the mask clears (R88, log entry 8). -/
theorem fenceType_fields (hop : opcode w = 0b0001111#7) (hf3 : funct3 w = 0b000#3) :
    fenceType (fmField w) (predField w) (succField w) = w &&& 0xFFF0707F#32 := by
  rw [fenceType, ← hop, ← hf3]
  ext i hi
  simp only [fmField, predField, succField, opcode, funct3, BitVec.getElem_append, BitVec.getElem_and]
  interval_cases i <;> simp

end

/-- Every opcode but FENCE's keeps the whole word. -/
theorem eq_ite_of_opcode {x w : Word} {op : BitVec 7} (hop : opcode w = op) (hfence : op ≠ 0b0001111#7) (h : x = w) :
    x = if opcode w = 0b0001111#7 then w &&& 0xFFF0707F#32 else w := by
  rw [hop, if_neg hfence, h]

/-- Settles O5: each format is put together from the fields that the decoder took apart; only FENCE's has bits that no
field of the instruction keeps. -/
theorem encodeInvertsDecode : Obligations.EncodeInvertsDecode := by
  intro w i h
  apply decode_elim h
  case H_fence => exact fun hop hf3 => (fenceType_fields hop hf3).trans (if_pos hop).symm
  case H_lui | H_auipc => exact fun hop => eq_ite_of_opcode hop (by decide) (uType_fields hop)
  case H_jal => exact fun hop => eq_ite_of_opcode hop (by decide) (jType_fields hop)
  case H_beq | H_bne | H_blt | H_bge | H_bltu | H_bgeu =>
    exact fun hop hf3 => eq_ite_of_opcode hop (by decide) (bType_fields hop hf3)
  case H_sb | H_sh | H_sw => exact fun hop hf3 => eq_ite_of_opcode hop (by decide) (sType_fields hop hf3)
  case H_jalr | H_lb | H_lh | H_lw | H_lbu | H_lhu | H_addi | H_slti | H_sltiu | H_xori | H_ori | H_andi =>
    exact fun hop hf3 => eq_ite_of_opcode hop (by decide) (iType_fields hop hf3)
  case H_slli | H_srli | H_srai | H_add | H_sub | H_sll | H_slt | H_sltu | H_xor | H_srl | H_sra | H_or | H_and =>
    exact fun hop hf3 hf7 => eq_ite_of_opcode hop (by decide) (rType_fields hop hf3 hf7)

/-- Settles O9: the decoder evaluates to each of them. -/
theorem writtenWordsDecode : Obligations.WrittenWordsDecode := by
  unfold Obligations.WrittenWordsDecode
  decide

end Sys2Proof.Claims
end

section
/-! PROOF. The register file's cell of index 0 has no influence (R21, R36; log entry 4): a simulation between a state and
the state with another value in that cell. -/

namespace Sys2Proof.Claims

open Sys2Proof Sys2Proof.Machine

/-! ## What reads a state sees the same (R21) -/

section
variable (s : State) (v : Word)

@[simp] theorem withZeroCell_pc : (withZeroCell s v).pc = s.pc := rfl
@[simp] theorem withZeroCell_run : (withZeroCell s v).run = s.run := rfl
@[simp] theorem withZeroCell_mem : (withZeroCell s v).mem = s.mem := rfl

@[simp] theorem readReg_withZeroCell (r : RegIdx) : readReg (withZeroCell s v) r = readReg s r := by
  by_cases hr : r = 0
  · rw [hr, readReg_zero, readReg_zero]
  · have hcell : (0 : Nat) ≠ r := fun h => hr (Fin.ext h.symm)
    simp [readReg, hr, withZeroCell, hcell]

@[simp] theorem fetchInstr_withZeroCell : fetchInstr (withZeroCell s v) = fetchInstr s := rfl

@[simp] theorem effectiveAddress_withZeroCell (rs1 : RegIdx) (imm : Word) :
    effectiveAddress (withZeroCell s v) rs1 imm = effectiveAddress s rs1 imm := by
  simp [effectiveAddress]

@[simp] theorem resultEffect_withZeroCell (rd : RegIdx) (x : Word) :
    resultEffect (withZeroCell s v) rd x = resultEffect s rd x := rfl

theorem nopEffect_withZeroCell : nopEffect (withZeroCell s v) = nopEffect s := rfl

@[simp] theorem loadEffect_withZeroCell (n : Width) (x : Extension) (rd rs1 : RegIdx) (imm : Word) :
    loadEffect (withZeroCell s v) n x rd rs1 imm = loadEffect s n x rd rs1 imm := by
  simp [loadEffect]

@[simp] theorem storeEffect_withZeroCell (n : Width) (rs1 rs2 : RegIdx) (imm : Word) :
    storeEffect (withZeroCell s v) n rs1 rs2 imm = storeEffect s n rs1 rs2 imm := by
  simp [storeEffect, sequentialPc]

@[simp] theorem relativeTarget_withZeroCell (imm : Word) :
    relativeTarget (withZeroCell s v) imm = relativeTarget s imm := rfl

@[simp] theorem indirectTarget_withZeroCell (rs1 : RegIdx) (imm : Word) :
    indirectTarget (withZeroCell s v) rs1 imm = indirectTarget s rs1 imm := by
  simp [indirectTarget]

@[simp] theorem jumpEffect_withZeroCell (rd : RegIdx) (target : Word) :
    jumpEffect (withZeroCell s v) rd target = jumpEffect s rd target := rfl

@[simp] theorem branchEffect_withZeroCell (taken : Bool) (imm : Word) :
    branchEffect (withZeroCell s v) taken imm = branchEffect s taken imm := rfl

/-! ## What changes a state keeps the cell -/

theorem writeReg_withZeroCell (i : RegIdx) (x : Word) :
    writeReg (withZeroCell s v) i x = withZeroCell (writeReg s i x) v := by
  by_cases hi : i = 0
  · rw [hi, writeReg_zero, writeReg_zero]
  · have hcell : (0 : Nat) ≠ i := fun h => hi (Fin.ext h.symm)
    simp [writeReg, hi, withZeroCell, State.setRegs, Vector.set_comm _ _ hcell]

theorem commitStore_withZeroCell (w : Option Store) :
    commitStore (withZeroCell s v) w = withZeroCell (commitStore s w) v := by
  cases w <;> rfl

theorem commitReg_withZeroCell (p : Option (RegIdx × Word)) :
    commitReg (withZeroCell s v) p = withZeroCell (commitReg s p) v := by
  cases p with
  | none => rfl
  | some p => exact writeReg_withZeroCell s v p.1 p.2

theorem commit_withZeroCell (e : Effect) : commit e (withZeroCell s v) = withZeroCell (commit e s) v := by
  rw [commit, commitStore_withZeroCell, commitReg_withZeroCell]
  rfl

end

/-! ## The two states take the same step -/

/-- The next state of an outcome changed by `f`; a fault or a refusal as it is. -/
def mapNext (f : State → State) :
    Host.Outcome State Fault Refusal → Host.Outcome State Fault Refusal
  | .next t => .next (f t)
  | .fault k => .fault k
  | .refused r => .refused r

section
variable {s : State} {v : Word}

/-- Execute ends alike in the two states when the effect is the same. -/
theorem settle_withZeroCell {r' r : Except Fault Effect} (h : r' = r) :
    settle r' (withZeroCell s v) = mapNext (withZeroCell · v) (settle r s) := by
  subst h
  cases r' with
  | ok e => exact congrArg Host.Outcome.next (commit_withZeroCell s v e)
  | error k => rfl

theorem settle_resultEffect_withZeroCell {rd : RegIdx} {x' x : Word} (h : x' = x) :
    settle (resultEffect (withZeroCell s v) rd x') (withZeroCell s v) =
      mapNext (withZeroCell · v) (settle (resultEffect s rd x) s) :=
  settle_withZeroCell (h ▸ resultEffect_withZeroCell s v rd x')

end

/-- Every instruction computes its effect by the reads above, so the effect is the same. -/
theorem exec_withZeroCell (i : Instr) (s : State) (v : Word) :
    exec i (withZeroCell s v) = mapNext (withZeroCell · v) (exec i s) := by
  cases i with
  | lui | auipc | addi | slti | sltiu | xori | ori | andi | slli | srli | srai
  | add | sub | sll | slt | sltu | xor | srl | sra | or | and =>
    exact settle_resultEffect_withZeroCell (by simp)
  | lb | lh | lw | lbu | lhu | sb | sh | sw | jal | jalr | beq | bne | blt | bge | bltu | bgeu =>
    exact settle_withZeroCell (by simp)
  | fence => exact settle_withZeroCell (nopEffect_withZeroCell s v)

theorem step_withZeroCell (s : State) (v : Word) :
    step (withZeroCell s v) = mapNext (withZeroCell · v) (step s) := by
  cases hrun : s.run with
  | faulted k =>
    rw [step_faulted hrun, step_faulted (s := withZeroCell s v) hrun]
    rfl
  | running =>
    cases hf : fetchInstr s with
    | error k =>
      rw [step_of_fetch_error hrun hf, step_of_fetch_error (s := withZeroCell s v) hrun hf]
      rfl
    | ok i =>
      rw [step_of_fetchInstr hrun hf, step_of_fetchInstr (s := withZeroCell s v) hrun hf]
      exact exec_withZeroCell i s v

/-- Settles O45: the step of the state with the other cell is the step of the state, with that cell in its next state. -/
theorem zeroCellHasNoInfluence : Obligations.ZeroCellHasNoInfluence := by
  intro s v
  rw [step_withZeroCell]
  cases step s <;> rfl

end Sys2Proof.Claims
end

section
/-! PROOF. What is stored is what is loaded or fetched (R48, R49, R61, R246, R253), and the address of an access
(R160). -/

namespace Sys2Proof.Claims

open Sys2Proof Sys2Proof.Machine

/-! ## A read of what was written (R43 to R45) -/

section
open BitVec (extractLsb'_append_extractLsb'_eq_extractLsb')

/-- Bytes that are those of a word, from the lowest up, gather to the low bits of the word. -/
theorem gather_of_bytes {m : Memory} {a : Nat} {v : Word} {n : Width}
    (h : ∀ i, i < n.bytes → m.byteAt (a + i) = v.extractLsb' (8 * i) 8) : m.gather a n = v.extractLsb' 0 n.bits := by
  have byte0 : m.byteAt a = v.extractLsb' 0 8 := h 0 (by cases n <;> decide)
  cases n with
  | byte => exact byte0
  | half =>
    rw [Memory.gather, h 1 (by decide), byte0]
    exact extractLsb'_append_extractLsb'_eq_extractLsb' rfl
  | word =>
    rw [Memory.gather, h 3 (by decide), h 2 (by decide), h 1 (by decide), byte0]
    simp only [extractLsb'_append_extractLsb'_eq_extractLsb', -Nat.reduceAdd]

end

theorem gather_scatter {m : Memory} (hm : m.wf) {a : Nat} (v : Word) {n : Width} (h : a + n.bytes ≤ m.size) :
    (m.scatter a v n.bytes).gather a n = v.extractLsb' 0 n.bits :=
  gather_of_bytes fun i hi => by rw [Memory.byteAt_scatter hm v h, if_pos (by omega), Nat.add_sub_cancel_left]

theorem memRead_memWrite {m m' : Memory} (hm : m.wf) {a v : Word} {n : Width} (h : memWrite m a n v = .ok m') :
    memRead m' a n = .ok (v.extractLsb' 0 n.bits) := by
  obtain ⟨hb, rfl⟩ := memWrite_ok h
  rw [memRead_of_inBounds (by rwa [inBounds, Memory.scatter_size]), gather_scatter hm v hb]

/-- The fetch reads the word that a write put at its aligned pc. -/
theorem fetch_of_memWrite {s : State} {m : Memory} {w : Word} (hm : m.wf) (ha : aligned s.pc)
    (h : memWrite m s.pc .word w = .ok s.mem) : fetch s = .ok w := by
  rw [fetch_of_aligned ha, memRead_memWrite hm h]
  exact congrArg Except.ok BitVec.extractLsb'_eq_self

/-- Settles O28: the load reads the low bits of the stored word and extends them. -/
theorem storeThenLoadReturnsValue : Obligations.StoreThenLoadReturnsValue := by
  intro m m' addr v n hm h
  have load : ∀ x, hostLoad m' addr n x = .ok (extend x (v.extractLsb' 0 n.bits)) := fun x => by
    rw [hostLoad, memRead_memWrite hm h]
  rw [load, load, extend_unsigned, extend_signed, toNat_extractLsb'_eq, pow_zero, Nat.div_one, ← width_bits_eq]
  exact ⟨rfl, by rw [Int.natCast_emod, Int.emod_bmod]⟩

/-- Settles O30: the committed store is a write of the word that the next fetch reads. -/
theorem fetchSeesTheStore : Obligations.FetchSeesTheStore := by
  intro rs1 rs2 imm s hm ha haddr hb
  have inside : inBounds s.mem (effectiveAddress s rs1 imm) .word := hb
  have hexec : exec (.sw rs1 rs2 imm) s = settle (storeEffect s .word rs1 rs2 imm) s := rfl
  rw [storeEffect_of_inBounds rs2 inside] at hexec
  have hwrite := memWrite_of_inBounds (readReg s rs2) inside
  exact ⟨_, hexec, fetch_of_memWrite hm (aligned_add_four ha) (haddr ▸ hwrite)⟩

theorem withFetchWord_of_ok {s : State} {nbits w : Nat} {m : Memory}
    (h : memWrite s.mem s.pc .word (BitVec.ofNat 32 (w % 2 ^ nbits)) = .ok m) :
    s.withFetchWord nbits w = s.setMem m := by
  simp [State.withFetchWord, h]

/-- Settles O50: in bounds the loader's store is a write of the word that the fetch reads. -/
theorem loadedWordIsFetched : Obligations.LoadedWordIsFetched := by
  intro s nbits w hm ha hb
  have inside : inBounds s.mem s.pc .word := hb
  have hwrite := memWrite_of_inBounds (BitVec.ofNat 32 (w % 2 ^ nbits)) inside
  rw [withFetchWord_of_ok hwrite]
  exact fetch_of_memWrite hm ha hwrite

/-- Settles O18: the sum of bit vectors as a number. -/
theorem effectiveAddressWraps : Obligations.EffectiveAddressWraps :=
  fun s rs1 imm => BitVec.toNat_add (readReg s rs1) imm

end Sys2Proof.Claims
end

section
/-! PROOF. What every instruction keeps: the pc's advance and the frame (R104, R105, R107); the step that runs the decoded
instruction (R104). -/

namespace Sys2Proof.Claims

open Sys2Proof Sys2Proof.Machine

/-- Settles O31: a fetch that decodes is a step that executes. -/
theorem stepRunsDecodedInstruction : Obligations.StepRunsDecodedInstruction := fun _ _ _ => step_of_fetches_decode

/-! ## The next pc of an effect (R105) -/

/-- An effect goes on at pc + 4 or at a multiple of 4; the second is for control transfers. -/
def NextPc (i : Instr) (s : State) (e : Effect) : Prop :=
  e.next = sequentialPc s ∨ (isTransfer i = true ∧ aligned e.next)

theorem jumpEffect_next_aligned {s : State} {rd : RegIdx} {target : Word} {e : Effect}
    (h : jumpEffect s rd target = .ok e) : aligned e.next := by
  obtain ⟨-, -, hnext⟩ := jumpEffect_sound h
  rw [hnext]
  by_contra ha
  cases (jumpEffect_of_not_aligned rd ha).symm.trans h

theorem branchEffect_next {s : State} {taken : Bool} {imm : Word} {e : Effect}
    (h : branchEffect s taken imm = .ok e) : e.next = sequentialPc s ∨ aligned e.next := by
  cases taken with
  | false =>
    cases (branchEffect_not_taken s imm).symm.trans h
    exact .inl rfl
  | true =>
    by_cases ha : aligned (relativeTarget s imm)
    · cases (branchEffect_of_aligned ha).symm.trans h
      exact .inr ha
    · cases (branchEffect_of_not_aligned ha).symm.trans h

theorem exec_settle_next (i : Instr) (s : State) :
    ∃ r, exec i s = settle r s ∧ ∀ e, r = .ok e → NextPc i s e := by
  cases i with
  | lui | auipc | addi | slti | sltiu | xori | ori | andi | slli | srli | srai
  | add | sub | sll | slt | sltu | xor | srl | sra | or | and =>
    exact ⟨_, rfl, fun _ h => .inl (resultEffect_sound h).2.2⟩
  | lb | lh | lw | lbu | lhu => exact ⟨_, rfl, fun _ h => .inl (loadEffect_sound h).2.2⟩
  | sb | sh | sw => exact ⟨_, rfl, fun _ h => .inl (storeEffect_sound h).2.2⟩
  | fence => exact ⟨_, rfl, fun _ h => .inl (nopEffect_sound h).2.2.2⟩
  | jal | jalr => exact ⟨_, rfl, fun _ h => .inr ⟨rfl, jumpEffect_next_aligned h⟩⟩
  | beq | bne | blt | bge | bltu | bgeu =>
    exact ⟨_, rfl, fun _ h => (branchEffect_next h).imp_right fun ha => ⟨rfl, ha⟩⟩

/-- An instruction that leaves the Cpu running has committed its effect. -/
theorem settle_running {r : Except Fault Effect} {s t : State} (h : settle r s = .next t) (ht : t.run = .running) :
    ∃ e, r = .ok e ∧ t = commit e s := by
  cases r with
  | ok e =>
    cases h
    exact ⟨e, rfl, rfl⟩
  | error k =>
    cases h
    cases ht

/-- Settles O38: the next pc of the committed effect. -/
theorem pcAdvancesByFour : Obligations.PcAdvancesByFour := by
  intro i s t _ h ht
  obtain ⟨r, hr, hnext⟩ := exec_settle_next i s
  obtain ⟨e, he, rfl⟩ := settle_running (hr.symm.trans h) ht
  rcases hnext e he with hseq | ⟨htransfer, ha⟩
  · exact ⟨fun _ => hseq, fun _ => .inl hseq⟩
  · exact ⟨fun hi => absurd (hi.symm.trans htransfer) nofun, fun _ => .inr ((aligned_iff _).mp ha)⟩

/-! ## The register an effect writes (R104) -/

theorem resultEffect_reg {s : State} {rd : RegIdx} {v : Word} {e : Effect} (h : resultEffect s rd v = .ok e) :
    e.reg.map Prod.fst = some rd := by
  cases h
  rfl

theorem loadEffect_reg {s : State} {n : Width} {x : Extension} {rd rs1 : RegIdx} {imm : Word} {e : Effect}
    (h : loadEffect s n x rd rs1 imm = .ok e) : e.reg.map Prod.fst = some rd := by
  by_cases hb : inBounds s.mem (effectiveAddress s rs1 imm) n
  · rw [loadEffect_of_inBounds x rd hb] at h
    exact resultEffect_reg h
  · cases (loadEffect_of_not_inBounds x rd hb).symm.trans h

theorem jumpEffect_reg {s : State} {rd : RegIdx} {target : Word} {e : Effect}
    (h : jumpEffect s rd target = .ok e) : e.reg.map Prod.fst = some rd := by
  by_cases ha : aligned target
  · cases (jumpEffect_of_aligned rd ha).symm.trans h
    rfl
  · cases (jumpEffect_of_not_aligned rd ha).symm.trans h

/-- The register that an instruction's effect writes is the destination that its format names. -/
theorem exec_settle_destination (i : Instr) (s : State) :
    ∃ r, exec i s = settle r s ∧ ∀ e, r = .ok e → e.reg.map Prod.fst = destination i := by
  cases i with
  | lui | auipc | addi | slti | sltiu | xori | ori | andi | slli | srli | srai
  | add | sub | sll | slt | sltu | xor | srl | sra | or | and => exact ⟨_, rfl, fun _ h => resultEffect_reg h⟩
  | lb | lh | lw | lbu | lhu => exact ⟨_, rfl, fun _ h => loadEffect_reg h⟩
  | jal | jalr => exact ⟨_, rfl, fun _ h => jumpEffect_reg h⟩
  | sb | sh | sw => exact ⟨_, rfl, fun _ h => congrArg (Option.map _) (storeEffect_sound h).2.1⟩
  | beq | bne | blt | bge | bltu | bgeu =>
    exact ⟨_, rfl, fun _ h => congrArg (Option.map _) (branchEffect_sound h).2.2⟩
  | fence => exact ⟨_, rfl, fun _ h => congrArg (Option.map _) (nopEffect_sound h).2.2.1⟩

theorem readReg_commit_of_ne {e : Effect} {s : State} {j : RegIdx} (h : e.reg.map Prod.fst ≠ some j) :
    readReg (commit e s) j = readReg s j := by
  rw [readReg_commit]
  cases hreg : e.reg with
  | none => rfl
  | some p =>
    have hne : j ≠ p.1 := fun hj => h (by rw [hreg, hj]; rfl)
    exact if_neg fun hj => hne hj.1

theorem readReg_exec_of_ne_destination {i : Instr} {s t : State} (h : exec i s = .next t) {j : RegIdx}
    (hj : destination i ≠ some j) : readReg t j = readReg s j := by
  obtain ⟨r, hr, hreg⟩ := exec_settle_destination i s
  cases r with
  | ok e =>
    cases hr.symm.trans h
    exact readReg_commit_of_ne (hreg e rfl ▸ hj)
  | error k =>
    cases hr.symm.trans h
    rfl

/-- Settles O39: only a store's effect reaches the memory, and an effect writes no register but the destination. -/
theorem instructionsStayInTheirFrame : Obligations.InstructionsStayInTheirFrame := fun _ _ _ h =>
  ⟨fun hi => sameMemory_of_mem_eq (exec_mem_of_not_store hi h), fun _ => readReg_exec_of_ne_destination h⟩

end Sys2Proof.Claims
end

section
/-! PROOF. The end of a run (R251). -/

namespace Sys2Proof.Claims

open Sys2Proof Sys2Proof.Machine

/-! ## Runs of Ok steps -/

theorem afterOk_succ_of_ok {s t : State} (h : cpuStep s = some (t, .ok)) (n : Nat) :
    afterOk (n + 1) s = afterOk n t := by
  simp [afterOk, h]

theorem afterOk_succ_of_fault {s t : State} {k : Fault} (h : cpuStep s = some (t, .fault k)) (n : Nat) :
    afterOk (n + 1) s = none := by
  simp [afterOk, h]

/-- A run of one step more begins with an Ok step. -/
theorem afterOk_succ {s u : State} {n : Nat} (h : afterOk (n + 1) s = some u) :
    ∃ t, cpuStep s = some (t, .ok) ∧ afterOk n t = some u := by
  obtain ⟨-, -, returns⟩ := everyStepReturns
  obtain ⟨t, r, hstep, -⟩ := returns s
  cases r with
  | ok => exact ⟨t, hstep, (afterOk_succ_of_ok hstep n).symm.trans h⟩
  | fault k => cases (afterOk_succ_of_fault hstep n).symm.trans h

theorem safeFor_zero (s : State) : SafeFor s 0 := rfl

/-- The run up to the step that returns the fault is safe, and none beyond it is. -/
theorem safeFor_iff_of_endsIn {s t : State} {n : Nat} {k : Fault} (h : EndsIn s n k t) (j : Nat) :
    SafeFor s j ↔ j ≤ n := by
  obtain ⟨u, hu, hfault⟩ := h
  induction n generalizing s j with
  | zero =>
    cases hu
    cases j with
    | zero => exact iff_of_true (safeFor_zero _) (Nat.zero_le _)
    | succ j => simp [SafeFor, afterOk_succ_of_fault hfault]
  | succ n ih =>
    obtain ⟨s', hstep, hu'⟩ := afterOk_succ hu
    cases j with
    | zero => exact iff_of_true (safeFor_zero _) (Nat.zero_le _)
    | succ j =>
      rw [SafeFor, afterOk_succ_of_ok hstep, Nat.succ_le_succ_iff]
      exact ih j hu'

/-! ## The end -/

theorem resultOf_eq_fault {t : State} {k : Fault} (h : resultOf t = .fault k) : t.run = .faulted k := by
  cases hrun : t.run with
  | running => cases (resultOf_running hrun).symm.trans h
  | faulted j =>
    cases (resultOf_faulted hrun).symm.trans h
    rfl

theorem run_of_step_fault {s : State} {k : Fault} (h : step s = .fault k) : s.run = .faulted k := by
  rcases step_cases s with ⟨j, hrun, hj⟩ | ⟨-, j, hj⟩ | ⟨-, e, -, he⟩
  · cases hj.symm.trans h
    exact hrun
  · cases hj.symm.trans h
  · cases he.symm.trans h

/-- A step that returns a fault leaves the Cpu faulted, whether it took the fault or found it. -/
theorem run_of_cpuStep_fault {s t : State} {k : Fault} (h : cpuStep s = some (t, .fault k)) : t.run = .faulted k := by
  rcases cpuStep_cases h with ⟨-, hresult⟩ | ⟨j, hstep, rfl, hj⟩
  · exact resultOf_eq_fault hresult.symm
  · cases hj
    exact run_of_step_fault hstep

theorem endsIn_length_unique {s t t' : State} {n n' : Nat} {k k' : Fault} (h : EndsIn s n k t)
    (h' : EndsIn s n' k' t') : n' = n :=
  Nat.le_antisymm ((safeFor_iff_of_endsIn h n').mp ((safeFor_iff_of_endsIn h' n').mpr (Nat.le_refl n')))
    ((safeFor_iff_of_endsIn h' n).mp ((safeFor_iff_of_endsIn h n).mpr (Nat.le_refl n)))

/-- Settles O46: the safe lengths determine n, and the n Ok steps and the step after them are functions of the state. -/
theorem runsEndOnce : Obligations.RunsEndOnce := by
  intro s n k t h
  refine ⟨safeFor_iff_of_endsIn h, ?faulted, fun n' k' t' h' => ?unique⟩
  case faulted =>
    obtain ⟨u, -, hfault⟩ := h
    exact run_of_cpuStep_fault hfault
  case unique =>
    obtain rfl := endsIn_length_unique h h'
    obtain ⟨u, hu, hfault⟩ := h
    obtain ⟨u', hu', hfault'⟩ := h'
    cases hu.symm.trans hu'
    cases hfault.symm.trans hfault'
    exact ⟨rfl, rfl, rfl⟩

end Sys2Proof.Claims
end
